-- ==== Sys2Proof/Word.lean ====
section
/-! DEFINITION. The word types of the block: bytes, 16-bit values and 32-bit registers (spec 00_scope.md R9). -/

namespace Sys2Proof

/-- `u8` of R9: a byte of a buffer, of the transport, or of a command word's `B` field. -/
abbrev Byte := BitVec 8

/-- `u16` of R9: a 16-bit checksum, a result code, or a command word's `H` field. -/
abbrev Half := BitVec 16

/-- `u32` of R9: a port register or a command word. -/
abbrev Word := BitVec 32

end Sys2Proof
end

