-- ==== Sys2Proof/Config.lean ====
section
/-! DEFINITION. The open parameters of the block (spec 00_scope.md R6) and the free values of the model. -/

namespace Sys2Proof

/-- The OPEN parameters of R6 that a rule reads. State holds one `Config`, so every statement about a state
is a statement about every parameter set. RETRY_DELAY is time and is not modelled (R281, log entry 12). -/
structure Config where
  /-- FILLER: the sentinel byte the resynchronizer discards (R6, D25). -/
  filler : Byte
  /-- PARSE_CHECKS_CHECKSUM: whether the checked parses test the checksum (R161 step 4, D20). -/
  parseChecksChecksum : Bool
  cmdEnter : Byte
  cmdExit : Byte
  cmdSend : Byte
  cmdSendNr : Byte
  cmdProgram : Byte
  cmdVerify : Byte
  cmdErase : Byte
  cmdVerifyChecksum : Byte
  cmdSetMetadata : Byte
  cmdSetEiv : Byte
  deriving DecidableEq, Repr

/-- The parameter set of `State.reset`. FILLER: DESIGN CHOICE, log entry 1 (the spec gives no value; 0xFF is its
test vectors' choice). Command ids: PRESUMED, log entry 2 (the defaults of 30_encoding.md R97). No statement
rests on a value chosen here. -/
def Config.default : Config where
  filler := 0xFF#8
  parseChecksChecksum := false
  cmdEnter := 0x38#8
  cmdExit := 0x3B#8
  cmdSend := 0x37#8
  cmdSendNr := 0x47#8
  cmdProgram := 0x49#8
  cmdVerify := 0x4A#8
  cmdErase := 0x44#8
  cmdVerifyChecksum := 0x31#8
  cmdSetMetadata := 0x4C#8
  cmdSetEiv := 0x4D#8

/-- Free values: what the window bytes of a failed RREAD hold afterwards (43_resync.md R198, R199, 93 U6:
"may hold any value"). No body: nothing can be proved about a value of it (log entry 4). -/
opaque Config.freeByte : Nat → Byte

end Sys2Proof
end

