-- ==== Sys2Proof/Machine/Constants.lean ====
section
/-! DEFINITION. The parameters whose value the spec fixes (00_scope.md R6, rows marked source, derived or decided). -/

namespace Sys2Proof.Machine

/-- START of R6: the first byte of every frame. -/
def startByte : Byte := 0x01#8

/-- STOP of R6: the last byte of every frame. -/
def stopByte : Byte := 0x17#8

/-- BASE_CMD_SIZE of R6: the bytes of a frame beside its payload. -/
def baseCmdSize : Nat := 7

/-- MAX_PAYLOAD of R6. -/
def maxPayload : Nat := 4096

/-- PBUF_SIZE of R6 and R40. -/
def pbufSize : Nat := 4096

/-- FBUF_SIZE of R6 and R40. -/
def fbufSize : Nat := 4103

/-- RETRY_MAX of R6 and R194. -/
def retryMax : Nat := 10

/-- CRC16_INIT of R6. -/
def crc16Init : Half := 0xFFFF#16

/-- CRC16_POLY of R6: the reflected form of 0x1021. -/
def crc16Poly : Half := 0x8408#16

/-- CRC32C_INIT of R6. -/
def crc32cInit : Word := 0xFFFFFFFF#32

/-- CRC32C_POLY of R6: the reflected Castagnoli polynomial (I1: fixed by the source's check value). -/
def crc32cPoly : Word := 0x82F63B78#32

end Sys2Proof.Machine
end

