-- ==== Sys2Proof/Syntax.lean ====
section
/-! DEFINITION. The command set DFUC-1 as syntax: one constructor per row of the opcode table
(spec 30_encoding.md R92, opcode_table.json), holding only the fields that row uses (R82). -/

namespace Sys2Proof

/-- ChecksumMode (10_state.md R24). -/
inductive ChecksumMode where
  /-- MODE[0] = 0. -/
  | sumComplement
  /-- MODE[0] = 1. -/
  | crc16Ccitt
  deriving DecidableEq, Repr

/-- The buffer a checksum command reads (40_checksum.md R122). -/
inductive Src where
  /-- B[0] = 0: the payload buffer. -/
  | pb
  /-- B[0] = 1: the frame buffer. -/
  | fb
  deriving DecidableEq, Repr

/-- The 27 commands (R92). Wider operands come from `ARG0` and `ARG1` (R83) and are no syntax. -/
inductive Instr where
  /-- R111 -/
  | setmode (m : ChecksumMode)
  /-- R221 -/
  | clrpb
  /-- R223 -/
  | putpb (b : Byte)
  /-- R225 -/
  | clrfb
  /-- R227 -/
  | putfb (b : Byte)
  /-- R229 -/
  | getfb (i : Half)
  /-- R114 -/
  | sum16 (src : Src)
  /-- R115 -/
  | crc16 (src : Src)
  /-- R116 -/
  | csum16 (src : Src)
  /-- R119 -/
  | crc32c (src : Src)
  /-- R134 -/
  | build (id : Byte)
  /-- R136 -/
  | benter
  /-- R138 -/
  | bexit
  /-- R140 -/
  | bsend
  /-- R142 -/
  | bsendnr
  /-- R144 -/
  | bprog
  /-- R146 -/
  | bverify
  /-- R148 -/
  | berase
  /-- R150 -/
  | bvchk (app : Byte)
  /-- R152 -/
  | bmeta (app : Byte)
  /-- R154 -/
  | beiv
  /-- R166 -/
  | pdefault
  /-- R168: expected status and data length. -/
  | pcustom (status : Byte) (len : Half)
  /-- R171 -/
  | penter
  /-- R174 -/
  | pvchk
  /-- R177 -/
  | ptry
  /-- R191 -/
  | rread (size : Half)
  deriving DecidableEq, Repr

end Sys2Proof
end

