-- ==== Sys2Proof/WellFormed.lean ====
section
/-! DEFINITION. What a launch and a command must satisfy. The one check the spec makes on parameters is
FILLER ≠ START (00_scope.md R7); the one on agents is a single host (20_memory.md R61). -/

namespace Sys2Proof

/-- R7: "A model must reject any parameter set that has FILLER = START." The command ids need not be distinct (R8). -/
def Config.wellFormed (c : Config) : Bool := c.filler != Machine.startByte

/-- R61: the model admits exactly one host, so none beside it. -/
def oneHost (extraHosts : Nat) : Bool := extraHosts == 0

/-- Every operand's range is its type's (a bit, a byte or 16 bits, R81), and a reserved OPC has no constructor
(R93), so no further check is left: every command is well formed. One line per constructor, no wildcard. -/
def Instr.wellFormed : Instr → Bool
  | .setmode _ | .clrpb | .putpb _ | .clrfb | .putfb _ | .getfb _ => true
  | .sum16 _ | .crc16 _ | .csum16 _ | .crc32c _ => true
  | .build _ | .benter | .bexit | .bsend | .bsendnr | .bprog | .bverify => true
  | .berase | .bvchk _ | .bmeta _ | .beiv => true
  | .pdefault | .pcustom _ _ | .penter | .pvchk | .ptry | .rread _ => true

end Sys2Proof
end

