-- ==== Sys2Proof/Decode.lean ====
section
/-! DEFINITION. Command words: the decoder, total on every 32-bit word and rejecting a reserved OPC by name
(spec 30_encoding.md R81, R92, R93), and after it the encoder. A command word is the whole of a command: there
is no operand word, and nothing else changes how it decodes (R94, 20_memory.md R76). -/

namespace Sys2Proof

/-- Why a word is no command. -/
inductive DecodeError where
  /-- R93: the OPC field is not in the opcode map. -/
  | reservedOpcode (opc : Byte)
  deriving DecidableEq, Repr

/-- `OPC = w[7:0]` (R81). -/
def fieldOPC (w : Word) : Byte := w.extractLsb' 0 8

/-- `B = w[15:8]` (R81). -/
def fieldB (w : Word) : Byte := w.extractLsb' 8 8

/-- `H = w[31:16]` (R81). -/
def fieldH (w : Word) : Half := w.extractLsb' 16 16

/-- `MODE[0]`: 0 = SumComplement, 1 = Crc16Ccitt (10_state.md R24). -/
def ChecksumMode.ofBit : Bool → ChecksumMode
  | false => .sumComplement
  | true => .crc16Ccitt

def ChecksumMode.toBit : ChecksumMode → Bool
  | .sumComplement => false
  | .crc16Ccitt => true

/-- `src`: 0 selects PB, 1 selects FB (40_checksum.md R122). -/
def Src.ofBit : Bool → Src
  | false => .pb
  | true => .fb

def Src.toBit : Src → Bool
  | .pb => false
  | .fb => true

/-- The mode operand, `B[0]` (R82: `B[7:1]` is ignored). -/
def modeOf (w : Word) : ChecksumMode := .ofBit ((fieldB w).getLsbD 0)

/-- The source operand, `B[0]` (R82: `B[7:1]` is ignored). -/
def srcOf (w : Word) : Src := .ofBit ((fieldB w).getLsbD 0)

/-- The opcode map of R92. Every OPC it does not list is reserved (R93). -/
def decode (w : Word) : Except DecodeError Instr :=
  match (fieldOPC w).toNat with
  | 0x01 => .ok (.setmode (modeOf w))
  | 0x02 => .ok .clrpb
  | 0x03 => .ok (.putpb (fieldB w))
  | 0x04 => .ok .clrfb
  | 0x05 => .ok (.putfb (fieldB w))
  | 0x06 => .ok (.getfb (fieldH w))
  | 0x10 => .ok (.sum16 (srcOf w))
  | 0x11 => .ok (.crc16 (srcOf w))
  | 0x12 => .ok (.csum16 (srcOf w))
  | 0x13 => .ok (.crc32c (srcOf w))
  | 0x20 => .ok (.build (fieldB w))
  | 0x21 => .ok .benter
  | 0x22 => .ok .bexit
  | 0x23 => .ok .bsend
  | 0x24 => .ok .bsendnr
  | 0x25 => .ok .bprog
  | 0x26 => .ok .bverify
  | 0x27 => .ok .berase
  | 0x28 => .ok (.bvchk (fieldB w))
  | 0x29 => .ok (.bmeta (fieldB w))
  | 0x2A => .ok .beiv
  | 0x30 => .ok .pdefault
  | 0x31 => .ok (.pcustom (fieldB w) (fieldH w))
  | 0x32 => .ok .penter
  | 0x33 => .ok .pvchk
  | 0x34 => .ok .ptry
  | 0x40 => .ok (.rread (fieldH w))
  | _ => .error (.reservedOpcode (fieldOPC w))

/-- The word a host's table gives, as a command: its `nbits` low bits, the rest zero. -/
def tableWord (nbits w : Nat) : Word := BitVec.ofNat 32 (w % 2 ^ nbits)

/-- The command the decoder reads from an opcode-table word (a command is one 32-bit word, R94). -/
def decodeTableWord (nbits w : Nat) : Option Instr :=
  match decode (tableWord nbits w) with
  | .ok i => some i
  | .error _ => none

/-! ### The encoder -/

/-- `w = OPC | (B << 8) | (H << 16)` (R92). -/
def packWord (opc b : Byte) (h : Half) : Word :=
  opc.setWidth 32 ||| (b.setWidth 32 <<< 8) ||| (h.setWidth 32 <<< 16)

/-- The OPC column of R92. -/
def Instr.opcode : Instr → Byte
  | .setmode _ => 0x01#8
  | .clrpb => 0x02#8
  | .putpb _ => 0x03#8
  | .clrfb => 0x04#8
  | .putfb _ => 0x05#8
  | .getfb _ => 0x06#8
  | .sum16 _ => 0x10#8
  | .crc16 _ => 0x11#8
  | .csum16 _ => 0x12#8
  | .crc32c _ => 0x13#8
  | .build _ => 0x20#8
  | .benter => 0x21#8
  | .bexit => 0x22#8
  | .bsend => 0x23#8
  | .bsendnr => 0x24#8
  | .bprog => 0x25#8
  | .bverify => 0x26#8
  | .berase => 0x27#8
  | .bvchk _ => 0x28#8
  | .bmeta _ => 0x29#8
  | .beiv => 0x2A#8
  | .pdefault => 0x30#8
  | .pcustom _ _ => 0x31#8
  | .penter => 0x32#8
  | .pvchk => 0x33#8
  | .ptry => 0x34#8
  | .rread _ => 0x40#8

/-- The `B` field a command's operands take; 0 where it uses none (R82, R92). -/
def Instr.bField : Instr → Byte
  | .setmode m => (BitVec.ofBool m.toBit).setWidth 8
  | .sum16 s | .crc16 s | .csum16 s | .crc32c s => (BitVec.ofBool s.toBit).setWidth 8
  | .putpb b | .putfb b | .build b | .bvchk b | .bmeta b => b
  | .pcustom st _ => st
  | .clrpb | .clrfb | .getfb _ | .benter | .bexit | .bsend | .bsendnr | .bprog | .bverify | .berase | .beiv => 0#8
  | .pdefault | .penter | .pvchk | .ptry | .rread _ => 0#8

/-- The `H` field a command's operands take; 0 where it uses none (R82, R92). -/
def Instr.hField : Instr → Half
  | .getfb h | .pcustom _ h | .rread h => h
  | .setmode _ | .clrpb | .putpb _ | .clrfb | .putfb _ | .sum16 _ | .crc16 _ | .csum16 _ | .crc32c _ => 0#16
  | .build _ | .benter | .bexit | .bsend | .bsendnr | .bprog | .bverify | .berase | .bvchk _ | .bmeta _ => 0#16
  | .beiv | .pdefault | .penter | .pvchk | .ptry => 0#16

/-- The word of a command, with every unused bit 0. -/
def encode (i : Instr) : Word := packWord i.opcode i.bField i.hField

/-- The bits of `B` a command uses (R82): one bit, all eight, or none. -/
def Instr.bMask : Instr → Byte
  | .setmode _ | .sum16 _ | .crc16 _ | .csum16 _ | .crc32c _ => 0x01#8
  | .putpb _ | .putfb _ | .build _ | .bvchk _ | .bmeta _ | .pcustom _ _ => 0xFF#8
  | .clrpb | .clrfb | .getfb _ | .benter | .bexit | .bsend | .bsendnr | .bprog | .bverify | .berase | .beiv => 0#8
  | .pdefault | .penter | .pvchk | .ptry | .rread _ => 0#8

/-- The bits of `H` a command uses (R82): all sixteen or none. -/
def Instr.hMask : Instr → Half
  | .getfb _ | .pcustom _ _ | .rread _ => 0xFFFF#16
  | .setmode _ | .clrpb | .putpb _ | .clrfb | .putfb _ | .sum16 _ | .crc16 _ | .csum16 _ | .crc32c _ => 0#16
  | .build _ | .benter | .bexit | .bsend | .bsendnr | .bprog | .bverify | .berase | .bvchk _ | .bmeta _ => 0#16
  | .beiv | .pdefault | .penter | .pvchk | .ptry => 0#16

/-- The bits of a word that select a command and its operands: OPC always, `B` and `H` as used (R82). -/
def Instr.usedBits (i : Instr) : Word := packWord 0xFF#8 i.bMask i.hMask

end Sys2Proof
end

