-- ==== Sys2Proof/Machine/State.lean ====
section
/-! DEFINITION. The state of the machine as plain data: the port registers and the two buffers of the block
(spec 10_state.md), the one host and its program (R22, R263), the transport (20_memory.md R66), and the open
parameters (00_scope.md R6). -/

namespace Sys2Proof.Machine

/-- A buffer's bytes, as address and byte pairs in the canonical form `Memory.wf` of Machine/Ops.lean:
addresses strictly rising, no entry equal to what an unlisted address reads as (log entry 3). -/
abbrev Memory := List Host.Cell

/-- The `TRead` an RREAD waits for, with what it has read of its window before (43_resync.md R191). -/
inductive Reading where
  /-- Step 1, the raw read of `size` bytes. -/
  | raw (size : Nat)
  /-- A one-byte retry of a window of `size` bytes; `left` more may follow it (R194). -/
  | retry (size left : Nat)
  /-- The last `k` bytes of the window, behind the good byte (R194). -/
  | tail (good : Byte) (k : Nat)
  /-- The last `k` bytes of the window, behind the good tail that was shifted to its start (R195). -/
  | refill (good : List Byte) (k : Nat)
  deriving DecidableEq, Repr

/-- What the transport does next (20_memory.md R66; the byte stream of R63): it delivers a byte, or it fails the
read in progress with an error value. Where the list ends, the transport has not answered yet (R249). -/
inductive TEvent where
  | byte (b : Byte)
  | fail (e : Word)
  deriving DecidableEq, Repr

/-- The transport agent: what it will still answer, and the sizes of the `TRead` calls the block has issued so far,
oldest first, one that waits for its answer included (R69: the only sub-steps visible outside the block). -/
structure Transport where
  stream : List TEvent
  reads : List Nat
  deriving DecidableEq, Repr

/-- One host access to the register port (20_memory.md R62). -/
inductive Access where
  | write (n : Byte) (v : Word)
  | read (n : Byte)
  deriving DecidableEq, Repr

/-- The host agent (R61): its accesses in program order, the index of the next one (10_state.md R22), and what
its register reads returned, oldest first. -/
structure HostAgent where
  program : List Access
  pc : Nat
  received : List Word
  deriving DecidableEq, Repr

structure State where
  /-- 0x00 CMD: the last command word written (R37). -/
  cmd : Word
  /-- 0x01 ARG0 (R36). -/
  arg0 : Word
  /-- 0x02 ARG1 (R36). -/
  arg1 : Word
  /-- 0x03 ERR: the result code of the last command (R26, R241). -/
  err : Half
  /-- 0x04 STATUS (R27). -/
  status : Byte
  /-- 0x05 MODE (R24). -/
  mode : ChecksumMode
  /-- 0x06 PKT: packet_started (R25). -/
  pkt : Bool
  /-- 0x07 PLEN: fill count of PB (R28). -/
  plen : BitVec 13
  /-- 0x08 FLEN: fill count of FB (R29). -/
  flen : BitVec 13
  /-- 0x09 CHK16 (R30). -/
  chk16 : Half
  /-- 0x0A CRC32 (R31). -/
  crc32 : Word
  /-- 0x0B SIID (R32). -/
  siid : Word
  /-- 0x0C SIREV (R32). -/
  sirev : Byte
  /-- 0x0D BLVER (R32). -/
  blver : BitVec 24
  /-- 0x0E CKVALID (R33). -/
  ckvalid : Bool
  /-- 0x0F RDATA (R34). -/
  rdata : Byte
  /-- 0x10 TERR (R35). -/
  terr : Word
  /-- PB, 4096 bytes (R40). -/
  pb : Memory
  /-- FB, 4103 bytes (R40). -/
  fb : Memory
  /-- The one host of R61. -/
  host : HostAgent
  /-- Host agents beside it: 0 in every launch the model admits (R61, R249). -/
  extraHosts : Nat
  /-- The transport of R66. -/
  transport : Transport
  /-- The model's own: where inside RREAD the command in CMD waits for the transport (R249, log entry 6); none where
  no command is under way. -/
  waiting : Option Reading
  /-- The model's own: numbers the free values of U6 (log entry 4). -/
  freeCount : Nat
  /-- The open parameters of R6: an argument of the model, written by no step. -/
  config : Config
  deriving DecidableEq, Repr

/-- Why the machine stops with a fault. The block itself has no traps (R248). -/
inductive Fault where
  /-- An access to PB at or above byte 4096, which does not exist (R63). Raised by PUTPB and the checksum commands,
  and only in a state with PLEN > 4096, which no run reaches (R28). Safe: log entry 11. -/
  | payloadAddress
  /-- An access to FB at or above byte 4103, which does not exist (R63). Raised by PUTFB, GETFB, the checksum
  commands, PCUSTOM and PTRY, and only in a state with FLEN > 4103, which no run reaches (R29), and by `resumeRread`,
  only in a state whose waiting read does not fit FB, which no run reaches either (R192). Safe: log entry 11. -/
  | frameAddress
  deriving DecidableEq, Repr

/-- Why the machine refuses to run. -/
inductive Refusal where
  /-- Raised by an arm of `exec` whose instruction has no meaning yet (none is left). Safe. -/
  | notModelled (mnemonic : String)
  /-- Raised by `step`: the launch has FILLER = START (R7, R249, U3). Safe: the spec asks for it. -/
  | fillerIsStart
  /-- Raised by `step`: the launch has more than one host agent (R61, R249, U1). Safe: the spec asks for it. -/
  | secondHost
  deriving DecidableEq, Repr

/-- How one command, access or step ends. -/
abbrev Outcome := Host.Outcome State Fault Refusal

/-- The machine right after reset (70_reset_and_hazards.md R261, R262, R263): every register zero, both fill
counts 0, MODE SumComplement, PKT 0; no host program is invented and the transport has answered nothing. -/
def State.reset : State where
  cmd := 0#32
  arg0 := 0#32
  arg1 := 0#32
  err := 0#16
  status := 0#8
  mode := .sumComplement
  pkt := false
  plen := 0#13
  flen := 0#13
  chk16 := 0#16
  crc32 := 0#32
  siid := 0#32
  sirev := 0#8
  blver := 0#24
  ckvalid := false
  rdata := 0#8
  terr := 0#32
  pb := []
  fb := []
  host := ⟨[], 0, []⟩
  extraHosts := 0
  transport := ⟨[], []⟩
  waiting := none
  freeCount := 0
  config := Config.default

end Sys2Proof.Machine
end

