-- ==== Sys2Proof/Machine/Flags.lean ====
section
/-! DEFINITION. The result codes of `ERR` (spec 60_exceptions.md R241, R242) and the block's one-bit state fields
(10_state.md R41). The block has no arithmetic flags. -/

namespace Sys2Proof.Machine

/-- The outcomes a command reports (R241). -/
inductive ResultCode where
  | ok
  | length
  | data
  | cmderr
  | unknown
  | response
  | timeout
  | comm
  /-- The device reported status `s`; raised for `s ≠ 0` only (R161, R242). -/
  | btldr (s : Byte)
  deriving DecidableEq, Repr

/-- Bit 13 of ERR, the transport tag (R242). -/
def commTag : Half := 0x2000#16

/-- Bit 14 of ERR, the device-status tag (R242). -/
def btldrTag : Half := 0x4000#16

/-- The value column of R241. -/
def ResultCode.bits : ResultCode → Half
  | .ok => 0x0000#16
  | .length => 0x0003#16
  | .data => 0x0004#16
  | .cmderr => 0x0005#16
  | .unknown => 0x000F#16
  | .response => 0x0010#16
  | .timeout => 0x0011#16
  | .comm => commTag
  | .btldr s => btldrTag ||| s.setWidth 16

/-- The values `ERR` can hold (R241): a host code, COMM, or BTLDR of a nonzero status. -/
def isResultCode (e : Half) : Bool :=
  [ResultCode.ok, .length, .data, .cmderr, .unknown, .response, .timeout, .comm].any (·.bits == e)
    || (e.extractLsb' 8 8 == 0x40#8 && e.extractLsb' 0 8 != 0#8)

/-- `PKT <- (W[size−1] = STOP) ? 0 : 1` (43_resync.md R197), of the window of a successful read. -/
def pktAfter (w : List Byte) : Bool := w.getLast? != some stopByte

/-- `CKVALID <- (FB[4] ≠ 0) ? 1 : 0` (42_framer_parse.md R174, 30_encoding.md R91). -/
def checksumValid (b : Byte) : Bool := b != 0#8

end Sys2Proof.Machine
end

