-- ==== Sys2Proof/Machine/Ops.lean ====
section
/-! DEFINITION. The shared operations: buffer memory, ending a command (with OK or with an error, R244), the
register port's reads (R62), the transport read (R66) and the host's next access (R22). -/

namespace Sys2Proof.Machine

/-! ### Byte memory -/

/-- What an unlisted address reads as: a DESIGN CHOICE (log entry 3) that R262 permits. -/
def Memory.unlisted : Byte := 0#8

/-- One byte of a buffer. -/
def Memory.read : Memory → Nat → Byte
  | [], _ => Memory.unlisted
  | (a, b) :: m, x => if a = x then b else Memory.read m x

/-- `space[a..a+n)`, index `a` first (00_scope.md R10). -/
def Memory.readBytes (m : Memory) (a n : Nat) : List Byte := (List.range n).map fun k => m.read (a + k)

/-- The cells of `bytes` laid from address `a` up; a byte equal to what an unlisted address reads as is left out. -/
def Memory.cells : Nat → List Byte → Memory
  | _, [] => []
  | a, b :: bs => if b = Memory.unlisted then Memory.cells (a + 1) bs else (a, b) :: Memory.cells (a + 1) bs

/-- `space[a+k] <- bytes[k]` for every `k < len(bytes)`; every other byte keeps its value (R11 `MemWrite`). -/
def Memory.writeBytes (m : Memory) (a : Nat) (bytes : List Byte) : Memory :=
  m.filter (fun c => decide (c.1 < a)) ++ Memory.cells a bytes
    ++ m.filter (fun c => decide (a + bytes.length ≤ c.1))

/-- `space[a] <- b`. -/
def Memory.write (m : Memory) (a : Nat) (b : Byte) : Memory := m.writeBytes a [b]

/-- The canonical form of a buffer of `size` bytes. -/
abbrev Memory.wf (size : Nat) (m : Memory) : Prop :=
  m.Pairwise (fun c d => c.1 < d.1) ∧ ∀ c ∈ m, c.1 < size ∧ c.2 ≠ Memory.unlisted

/-! ### Named updates of the state -/

def State.setCmd (w : Word) (s : State) : State := { s with cmd := w }

def State.setErr (c : ResultCode) (s : State) : State := { s with err := c.bits }

def State.setStatus (b : Byte) (s : State) : State := { s with status := b }

/-- A new content and fill count of PB. -/
def State.setPayload (m : Memory) (n : Nat) (s : State) : State := { s with pb := m, plen := BitVec.ofNat 13 n }

/-- A new content and fill count of FB. -/
def State.setFrame (m : Memory) (n : Nat) (s : State) : State := { s with fb := m, flen := BitVec.ofNat 13 n }

def State.setTransport (t : Transport) (s : State) : State := { s with transport := t }

/-- The command under way waits for this read; none where it does not wait (R249, log entry 6). -/
def State.setWaiting (r : Option Reading) (s : State) : State := { s with waiting := r }

/-- The host's next access is taken: its program counter advances by one (10_state.md R22). -/
def State.advance (s : State) : State := { s with host := { s.host with pc := s.host.pc + 1 } }

/-- A register read returns `v` to the host (20_memory.md R62). -/
def State.receive (v : Word) (s : State) : State :=
  { s with host := { s.host with received := s.host.received ++ [v] } }

/-- `n` bytes of FB from `a` up hold free values afterwards (R198, R199, U6; log entry 4). -/
def State.loseWindow (a n : Nat) (s : State) : State :=
  { s with
    fb := s.fb.writeBytes a ((List.range n).map fun k => Config.freeByte (s.freeCount + k))
    freeCount := s.freeCount + n }

/-- The transport answers further: its bytes and failures arrive behind those already there. -/
def Transport.deliver (evs : List TEvent) (t : Transport) : Transport := { t with stream := t.stream ++ evs }

/-- The transport answers further: an input of the machine (R66, R249), no part of a step. -/
def State.deliver (evs : List TEvent) (s : State) : State := { s with transport := s.transport.deliver evs }

/-! ### How a command ends -/

/-- The command ends with OK: `ERR <- OK` on the state its other writes left (R241). -/
def complete (s : State) : Outcome := .next (s.setErr .ok)

/-- `raise E` (R244, 00_scope.md R11): the command ends with `ERR <- E`; whatever else that path writes is already
in `s`. It is a normal completion: nothing stops, no state is saved and nothing waits for an acknowledgement
(R245, R248). -/
def raise (c : ResultCode) (s : State) : Outcome := .next (s.setErr c)

/-! ### The register port -/

/-- `RegRead(n)`: the register map of R23. Bits above a register's width read 0, and so does every number above
0x10 (R38). -/
def regRead (s : State) (n : Byte) : Word :=
  match n.toNat with
  | 0x00 => s.cmd
  | 0x01 => s.arg0
  | 0x02 => s.arg1
  | 0x03 => s.err.setWidth 32
  | 0x04 => s.status.setWidth 32
  | 0x05 => (BitVec.ofBool s.mode.toBit).setWidth 32
  | 0x06 => (BitVec.ofBool s.pkt).setWidth 32
  | 0x07 => s.plen.setWidth 32
  | 0x08 => s.flen.setWidth 32
  | 0x09 => s.chk16.setWidth 32
  | 0x0A => s.crc32
  | 0x0B => s.siid
  | 0x0C => s.sirev.setWidth 32
  | 0x0D => s.blver.setWidth 32
  | 0x0E => (BitVec.ofBool s.ckvalid).setWidth 32
  | 0x0F => s.rdata.setWidth 32
  | 0x10 => s.terr
  | _ => 0#32

/-! ### The transport read -/

/-- How one `TRead` ends (R66), with what is left of the stream; `unanswered` where the stream holds neither
enough bytes nor a failure (R249). -/
inductive TReply where
  | ok (bytes : List Byte) (rest : List TEvent)
  | fail (e : Word) (rest : List TEvent)
  | unanswered
  deriving DecidableEq, Repr

/-- `TRead(k)`: exactly `k` bytes of the stream, or the first failure in front of them. The bytes a failed read
consumed are lost (91 N9, R70; log entry 5). -/
def tread : Nat → List TEvent → TReply
  | 0, evs => .ok [] evs
  | _ + 1, [] => .unanswered
  | _ + 1, .fail e :: rest => .fail e rest
  | k + 1, .byte b :: rest =>
    match tread k rest with
    | .ok bytes rest' => .ok (b :: bytes) rest'
    | .fail e rest' => .fail e rest'
    | .unanswered => .unanswered

/-- The block issues `TRead(k)`: what the transport sees of an RREAD (R69). -/
def Transport.issue (k : Nat) (t : Transport) : Transport := { t with reads := t.reads ++ [k] }

/-- How many bytes the read asks for. -/
def Reading.count : Reading → Nat
  | .raw size => size
  | .retry _ _ => 1
  | .tail _ k => k
  | .refill _ k => k

/-- The size of the window the read is part of. -/
def Reading.size : Reading → Nat
  | .raw size => size
  | .retry size _ => size
  | .tail _ k => k + 1
  | .refill good k => good.length + k

/-! ### The host's next access and the launch -/

/-- The access the host makes next; none where its program is at its end, and the block waits (R263). -/
def nextAccess (s : State) : Option Access := s.host.program[s.host.pc]?

/-- Why a launch is refused (R249): FILLER = START (R7), or a host beside the one (R61). -/
def launchRefusal (s : State) : Option Refusal :=
  if ¬ s.config.wellFormed then some .fillerIsStart
  else if ¬ oneHost s.extraHosts then some .secondHost
  else none

/-- The host's program with `a` as the access at index `pc`; every other access stays where it is. (Where the
program is shorter than `pc`, reads of CMD fill the places in between: they are not run.) -/
def placeAccess (program : List Access) (pc : Nat) (a : Access) : List Access :=
  program.take pc ++ List.replicate (pc - program.length) (.read 0#8) ++ a :: program.drop (pc + 1)

end Sys2Proof.Machine
end

