-- ==== Sys2Proof/Machine/Operands.lean ====
section
/-! DEFINITION. What commands read: the valid bytes of the buffers, little-endian fields (spec 00_scope.md R10,
20_memory.md R64), the argument registers' wider operands (30_encoding.md R83) and the payloads of the builders
(R89). -/

namespace Sys2Proof.Machine

/-! ### Little-endian fields -/

/-- `le_bytes(v, n)`: the `n` low bytes of `v`, low byte first (R10). -/
def leBytes : Nat → Nat → List Byte
  | 0, _ => []
  | n + 1, v => BitVec.ofNat 8 v :: leBytes n (v / 256)

/-- `le(s) = Σ s[i]·256^i` (R10). -/
def le : List Byte → Nat
  | [] => 0
  | b :: bs => b.toNat + 256 * le bs

/-! ### Buffers -/

/-- `PB[0..PLEN)` (10_state.md R40). -/
def payload (s : State) : List Byte := s.pb.readBytes 0 s.plen.toNat

/-- `FB[0..FLEN)` (R40). -/
def frameBytes (s : State) : List Byte := s.fb.readBytes 0 s.flen.toNat

/-- `sel(src)` (40_checksum.md R122), handed to `k`. A fill count past its buffer's end names bytes that do not
exist (R63): log entry 11. -/
def withSelected (src : Src) (s : State) (k : List Byte → Outcome) : Outcome :=
  match src with
  | .pb => if s.plen.toNat ≤ pbufSize then k (payload s) else .fault .payloadAddress
  | .fb => if s.flen.toNat ≤ fbufSize then k (frameBytes s) else .fault .frameAddress

/-! ### Argument registers and payloads -/

/-- `pid = zext_48(ARG1[15:0]) << 32 | zext_48(ARG0)` (R83). `ARG1[31:16]` is ignored. -/
def productId (s : State) : BitVec 48 := ((s.arg1.extractLsb' 0 16).setWidth 48 <<< 32) ||| s.arg0.setWidth 48

/-- BENTER's payload: 4 bytes where the high 16 bits of the product id are zero, else 6 (R89, R136). -/
def enterPayload (s : State) : List Byte :=
  if s.arg1.extractLsb' 0 16 = 0#16 then leBytes 4 s.arg0.toNat else leBytes 6 (productId s).toNat

/-- The payload of BPROG and BVERIFY: address, CRC-32C, chunk (R89, R144, R146). -/
def rowPayload (s : State) : List Byte := leBytes 4 s.arg0.toNat ++ leBytes 4 s.arg1.toNat ++ payload s

/-- BERASE's payload: the address (R89, R148). -/
def erasePayload (s : State) : List Byte := leBytes 4 s.arg0.toNat

/-- BMETA's payload: application id, start, size (R89, R152). -/
def metaPayload (app : Byte) (s : State) : List Byte := app :: (leBytes 4 s.arg0.toNat ++ leBytes 4 s.arg1.toNat)

end Sys2Proof.Machine
end

