-- ==== Sys2Proof/Machine/Checksum.lean ====
section
/-! DEFINITION. The checksum engine (spec 40_checksum.md): the four functions, and the commands SETMODE, SUM16,
CRC16, CSUM16 and CRC32C. -/

namespace Sys2Proof.Machine

/-- The running byte sum modulo 2^16 of R112. -/
def byteSum (s : List Byte) : Half := s.foldl (fun acc b => acc + b.setWidth 16) 0#16

/-- `sum16` (R112): the two's-complement negation of the byte sum. -/
def sum16 (s : List Byte) : Half := ~~~(byteSum s) + 1#16

/-- `k` bit steps of `crc16_step` (R113), least-significant bit of `t` first. -/
def crc16Bits : Nat → Half → Byte → Half
  | 0, c, _ => c
  | k + 1, c, t => crc16Bits k (if c.getLsbD 0 ^^ t.getLsbD 0 then (c >>> 1) ^^^ crc16Poly else c >>> 1) (t >>> 1)

/-- `crc16_step` (R113). -/
def crc16Step (c : Half) (b : Byte) : Half := crc16Bits 8 c b

/-- The CRC register after the bytes of `s`, before the final complement (R113). -/
def crc16Register (s : List Byte) : Half := s.foldl crc16Step crc16Init

/-- The high/low byte swap of R113. -/
def swapBytes (r : Half) : Half := ((r.extractLsb' 0 8).setWidth 16 <<< 8) ||| (r.extractLsb' 8 8).setWidth 16

/-- `crc16_ccitt` (R113; 90_conflicts.md C1: the explicit parameters win over the label). -/
def crc16Ccitt (s : List Byte) : Half := swapBytes (~~~(crc16Register s))

/-- `checksum16(s, mode)` (R117). -/
def checksum16 (s : List Byte) : ChecksumMode → Half
  | .sumComplement => sum16 s
  | .crc16Ccitt => crc16Ccitt s

/-- `k` bit steps of `crc32c` (R118). -/
def crc32cBits : Nat → Word → Word
  | 0, c => c
  | k + 1, c => crc32cBits k (if c.getLsbD 0 then (c >>> 1) ^^^ crc32cPoly else c >>> 1)

/-- One byte of `crc32c` (R118). -/
def crc32cStep (c : Word) (b : Byte) : Word := crc32cBits 8 (c ^^^ b.setWidth 32)

/-- `crc32c` (R118). -/
def crc32c (s : List Byte) : Word := ~~~(s.foldl crc32cStep crc32cInit)

/-- The nibble table of R120. -/
def crc32cTable : List Word :=
  [0x00000000#32, 0x105EC76F#32, 0x20BD8EDE#32, 0x30E349B1#32, 0x417B1DBC#32, 0x5125DAD3#32, 0x61C69362#32,
    0x7198540D#32, 0x82F63B78#32, 0x92A8FC17#32, 0xA24BB5A6#32, 0xB21572C9#32, 0xC38D26C4#32, 0xD3D3E1AB#32,
    0xE330A81A#32, 0xF36E6F75#32]

/-- `c <- (c >> 4) ^ T[c[3:0]]` (R120). -/
def crc32cNibble (c : Word) : Word := (c >>> 4) ^^^ crc32cTable.getD (c.extractLsb' 0 4).toNat 0#32

/-- The nibble-wise form of one byte (R120). -/
def crc32cNibbleStep (c : Word) (b : Byte) : Word := crc32cNibble (crc32cNibble (c ^^^ b.setWidth 32))

/-- The nibble-wise table form of `crc32c` (R120); the commands use `crc32c`. -/
def crc32cByNibbles (s : List Byte) : Word := ~~~(s.foldl crc32cNibbleStep crc32cInit)

/-! ### The commands -/

/-- SETMODE m (R111). -/
def execSetmode (m : ChecksumMode) (s : State) : Outcome := complete { s with mode := m }

/-- SUM16 src (R114). -/
def execSum16 (src : Src) (s : State) : Outcome :=
  withSelected src s fun bytes => complete { s with chk16 := sum16 bytes }

/-- CRC16 src (R115), whatever MODE holds. -/
def execCrc16 (src : Src) (s : State) : Outcome :=
  withSelected src s fun bytes => complete { s with chk16 := crc16Ccitt bytes }

/-- CSUM16 src (R116), in the current mode. -/
def execCsum16 (src : Src) (s : State) : Outcome :=
  withSelected src s fun bytes => complete { s with chk16 := checksum16 bytes s.mode }

/-- CRC32C src (R119), whatever MODE holds. -/
def execCrc32c (src : Src) (s : State) : Outcome :=
  withSelected src s fun bytes => complete { s with crc32 := crc32c bytes }

end Sys2Proof.Machine
end

