-- ==== Sys2Proof/Machine/Framer.lean ====
section
/-! DEFINITION. The packet framer (spec 41_framer_build.md): `frame`, `emit` and the eleven builders. A builder
copies its command id into FB[1] without interpreting it (R133). -/

namespace Sys2Proof.Machine

/-- START, id, length and payload: the bytes the checksum covers (R131, 30_encoding.md R85). -/
def frameHead (id : Byte) (p : List Byte) : List Byte := startByte :: id :: (leBytes 2 p.length ++ p)

/-- `frame(id, p, mode)` (R131, layout R84). -/
def frame (id : Byte) (p : List Byte) (mode : ChecksumMode) : List Byte :=
  frameHead id p ++ leBytes 2 (checksum16 (frameHead id p) mode).toNat ++ [stopByte]

/-- `emit(id, p)` (R132): LENGTH if the payload is longer than MAX_PAYLOAD, with only ERR written; else the frame
replaces FB[0..len+7), FB's other bytes keep their values, and FLEN is the frame's length. -/
def emit (id : Byte) (p : List Byte) (s : State) : Outcome :=
  if maxPayload < p.length then raise .length s
  else complete (s.setFrame (s.fb.writeBytes 0 (frame id p s.mode)) (frame id p s.mode).length)

/-- BUILD id (R134). -/
def execBuild (id : Byte) (s : State) : Outcome := emit id (payload s) s

/-- BENTER (R136). -/
def execBenter (s : State) : Outcome := emit s.config.cmdEnter (enterPayload s) s

/-- BEXIT (R138). -/
def execBexit (s : State) : Outcome := emit s.config.cmdExit [] s

/-- BSEND (R140). -/
def execBsend (s : State) : Outcome := emit s.config.cmdSend (payload s) s

/-- BSENDNR (R142). -/
def execBsendnr (s : State) : Outcome := emit s.config.cmdSendNr (payload s) s

/-- BPROG (R144). -/
def execBprog (s : State) : Outcome := emit s.config.cmdProgram (rowPayload s) s

/-- BVERIFY (R146). -/
def execBverify (s : State) : Outcome := emit s.config.cmdVerify (rowPayload s) s

/-- BERASE (R148). -/
def execBerase (s : State) : Outcome := emit s.config.cmdErase (erasePayload s) s

/-- BVCHK app (R150). -/
def execBvchk (app : Byte) (s : State) : Outcome := emit s.config.cmdVerifyChecksum [app] s

/-- BMETA app (R152). -/
def execBmeta (app : Byte) (s : State) : Outcome := emit s.config.cmdSetMetadata (metaPayload app s) s

/-- The IV lengths of R154. -/
def ivLength (n : Nat) : Bool := n == 0 || n == 8 || n == 16

/-- BEIV (R154): the IV length is tested before anything else. -/
def execBeiv (s : State) : Outcome :=
  if ivLength s.plen.toNat then emit s.config.cmdSetEiv (payload s) s else raise .length s

end Sys2Proof.Machine
end

