-- ==== Sys2Proof/Machine/Parser.lean ====
section
/-! DEFINITION. The packet parser (spec 42_framer_parse.md): the common check and the five parse commands. -/

namespace Sys2Proof.Machine

/-- How `check(d, e)` ends (R161): the frame passes with its status byte, or a step fails with a code and, for
BTLDR and RESPONSE, the status byte that STATUS takes (R162). -/
inductive CheckEnd where
  | pass (status : Byte)
  | fails (code : ResultCode)
  | failsWith (code : ResultCode) (status : Byte)
  /-- FLEN is past the end of FB (log entry 11). -/
  | badAddress
  deriving DecidableEq, Repr

/-- Step 2 of R161: the code of a status byte `st ≠ e`. -/
def statusFailure (st : Byte) : CheckEnd :=
  if st ≠ 0#8 then .failsWith (.btldr st) st else .failsWith .response st

/-- Step 3 of R161: the markers and the length field fit a frame of data length `d`. -/
def markersFit (fb : Memory) (d : Nat) : Bool :=
  fb.read 0 == startByte && le (fb.readBytes 2 2) == d && fb.read (d + 6) == stopByte

/-- `le(FB[4+d..6+d)) = checksum16(FB[0..4+d), MODE)` (R161 step 4, R177). -/
def checksumFits (fb : Memory) (d : Nat) (mode : ChecksumMode) : Bool :=
  le (fb.readBytes (4 + d) 2) == (checksum16 (fb.readBytes 0 (4 + d)) mode).toNat

/-- `check(d, e)` (R161). The length comes before any read of FB (R163); the first failing step is reported
(R164); with step 1 passed, `FB[n−1]` is `FB[d+6]`. -/
def check (d : Half) (e : Byte) (s : State) : CheckEnd :=
  if s.flen.toNat ≠ d.toNat + baseCmdSize then .fails .length
  else if fbufSize < s.flen.toNat then .badAddress
  else if s.fb.read 1 ≠ e then statusFailure (s.fb.read 1)
  else if ¬ markersFit s.fb d.toNat then .fails .data
  else if s.config.parseChecksChecksum ∧ ¬ checksumFits s.fb d.toNat s.mode then .fails .data
  else .pass (s.fb.read 1)

/-- `check(d, e)`, then, only on success, the outputs `k` writes, STATUS and `ERR <- OK` (R162). -/
def checked (d : Half) (e : Byte) (s : State) (k : State → State) : Outcome :=
  match check d e s with
  | .pass st => complete (k (s.setStatus st))
  | .fails c => raise c s
  | .failsWith c st => raise c (s.setStatus st)
  | .badAddress => .fault .frameAddress

/-- PDEFAULT (R166). -/
def execPdefault (s : State) : Outcome := checked 0#16 0#8 s id

/-- PCUSTOM st, d (R168). -/
def execPcustom (st : Byte) (d : Half) (s : State) : Outcome := checked d st s id

/-- PENTER (R171): the fields of 30_encoding.md R90, written on success only (R172). -/
def execPenter (s : State) : Outcome :=
  checked 8#16 0#8 s fun s =>
    { s with
      siid := BitVec.ofNat 32 (le (s.fb.readBytes 4 4))
      sirev := s.fb.read 8
      blver := BitVec.ofNat 24 (le (s.fb.readBytes 9 3)) }

/-- PVCHK (R174): CKVALID is written on success only (R175). -/
def execPvchk (s : State) : Outcome :=
  checked 1#16 0#8 s fun s => { s with ckvalid := checksumValid (s.fb.read 4) }

/-- The declared length `le(FB[2..4))` (R177). -/
def declaredLength (fb : Memory) : Nat := le (fb.readBytes 2 2)

/-- R177's tests on a frame that fits: START, STOP at `d + 6`, and the checksum in the current mode. -/
def selfConsistent (s : State) : Bool :=
  s.fb.read 0 == startByte && s.fb.read (declaredLength s.fb + 6) == stopByte
    && checksumFits s.fb (declaredLength s.fb) s.mode

/-- PTRY (R177): it judges no status, and it tests the checksum whatever PARSE_CHECKS_CHECKSUM holds. -/
def execPtry (s : State) : Outcome :=
  if s.flen.toNat < baseCmdSize then raise .unknown s
  else if fbufSize < s.flen.toNat then .fault .frameAddress
  else if s.flen.toNat < declaredLength s.fb + baseCmdSize then raise .unknown s
  else if selfConsistent s then complete (s.setStatus (s.fb.read 1))
  else raise .unknown s

end Sys2Proof.Machine
end

