-- ==== Sys2Proof/Machine/Port.lean ====
section
/-! DEFINITION. The buffer port commands (spec 44_port.md). -/

namespace Sys2Proof.Machine

/-- CLRPB (R221): the bytes of PB stay and become invalid. -/
def execClrpb (s : State) : Outcome := complete (s.setPayload s.pb 0)

/-- PUTPB b (R223): LENGTH where the buffer is full. -/
def execPutpb (b : Byte) (s : State) : Outcome :=
  if s.plen.toNat = pbufSize then raise .length s
  else if s.plen.toNat < pbufSize then complete (s.setPayload (s.pb.write s.plen.toNat b) (s.plen.toNat + 1))
  else .fault .payloadAddress

/-- CLRFB (R225): PKT stays. -/
def execClrfb (s : State) : Outcome := complete (s.setFrame s.fb 0)

/-- PUTFB b (R227): LENGTH where the buffer is full; PKT is neither read nor written. -/
def execPutfb (b : Byte) (s : State) : Outcome :=
  if s.flen.toNat = fbufSize then raise .length s
  else if s.flen.toNat < fbufSize then complete (s.setFrame (s.fb.write s.flen.toNat b) (s.flen.toNat + 1))
  else .fault .frameAddress

/-- GETFB i (R229): LENGTH for an index at or beyond the fill count. -/
def execGetfb (i : Half) (s : State) : Outcome :=
  if s.flen.toNat ≤ i.toNat then raise .length s
  else if i.toNat < fbufSize then complete { s with rdata := s.fb.read i.toNat }
  else .fault .frameAddress

end Sys2Proof.Machine
end

