-- ==== Sys2Proof/Machine/Resync.lean ====
section
/-! DEFINITION. The byte-stream resynchronizer (spec 43_resync.md): the command RREAD. -/

namespace Sys2Proof.Machine

/-- How the reads of one RREAD end (R191). -/
inductive ReadEnd where
  /-- The window `W[0..size)` is complete. -/
  | window (w : List Byte)
  /-- A `TRead` failed with this value (R199). -/
  | comm (e : Word)
  /-- Every one-byte retry returned filler (R194, R198). -/
  | timeout
  /-- The transport has not answered this read yet (R249). -/
  | unanswered (r : Reading)
  deriving DecidableEq, Repr

/-- The answer to the read `r`, which has been issued: `next` goes on with its bytes; a failure ends the command at
once, with no further read (R199). -/
def answerThen (r : Reading) (t : Transport) (next : List Byte → Transport → ReadEnd × Transport) :
    ReadEnd × Transport :=
  match tread r.count t.stream with
  | .ok bytes rest => next bytes { t with stream := rest }
  | .fail e rest => (.comm e, { t with stream := rest })
  | .unanswered => (.unanswered r, t)

/-- One `TRead` inside RREAD: it is issued, and then answered. -/
def treadThen (r : Reading) (t : Transport) (next : List Byte → Transport → ReadEnd × Transport) :
    ReadEnd × Transport :=
  answerThen r (t.issue r.count) next

/-- The tail of the all-garbage branch completes the window behind its good byte (R194). -/
def afterTail (good : Byte) (bytes : List Byte) (t : Transport) : ReadEnd × Transport := (.window (good :: bytes), t)

/-- The refill completes the window behind its good tail; it is not scanned (R195). -/
def afterRefill (good bytes : List Byte) (t : Transport) : ReadEnd × Transport := (.window (good ++ bytes), t)

/-- A good byte goes to `W[0]`, and one read of `size − 1` bytes completes the window; none is issued where
`size = 1` (R194, D48). -/
def readTail (size : Nat) (good : Byte) (t : Transport) : ReadEnd × Transport :=
  if size = 1 then (.window [good], t) else treadThen (.tail good (size - 1)) t (afterTail good)

/-- Up to `n` one-byte reads, until one is no filler (R194). The delay before each is no step (R196). -/
def retryByte (filler : Byte) (size : Nat) : Nat → Transport → ReadEnd × Transport
  | 0, t => (.timeout, t)
  | n + 1, t =>
    treadThen (.retry size n) t fun r t' =>
      if r.headD filler = filler then retryByte filler size n t' else readTail size (r.headD filler) t'

/-- What follows a one-byte read after which `left` more may come (R194). -/
def afterRetry (filler : Byte) (size left : Nat) (r : List Byte) (t : Transport) : ReadEnd × Transport :=
  if r.headD filler = filler then retryByte filler size left t else readTail size (r.headD filler) t

/-- The number of leading filler bytes: the least `j` with `W[j] ≠ FILLER` where there is one (R191). -/
def leadingFiller (filler : Byte) (w : List Byte) : Nat := (w.takeWhile (· == filler)).length

/-- What follows the raw read of the window `w` (R191): with PKT = 0 only (R193), the all-garbage branch (R194) or the
shift and refill (R195). -/
def afterRaw (filler : Byte) (pkt : Bool) (size : Nat) (w : List Byte) (t : Transport) : ReadEnd × Transport :=
  if pkt then (.window w, t)
  else if leadingFiller filler w = w.length then retryByte filler size retryMax t
  else if leadingFiller filler w = 0 then (.window w, t)
  else
    treadThen (.refill (w.drop (leadingFiller filler w)) (leadingFiller filler w)) t
      (afterRefill (w.drop (leadingFiller filler w)))

/-- The reads of RREAD from the issued read `r` on. -/
def goOn (filler : Byte) (pkt : Bool) (r : Reading) (t : Transport) : ReadEnd × Transport :=
  match r with
  | .raw size => answerThen (.raw size) t (afterRaw filler pkt size)
  | .retry size left => answerThen (.retry size left) t (afterRetry filler size left)
  | .tail good k => answerThen (.tail good k) t (afterTail good)
  | .refill good k => answerThen (.refill good k) t (afterRefill good)

/-- The reads of `RREAD size` (R191). -/
def resync (filler : Byte) (pkt : Bool) (size : Nat) (t : Transport) : ReadEnd × Transport :=
  goOn filler pkt (.raw size) (t.issue size)

/-- What the end of the reads does to the state, for a window at `FB[base..base+size)` with `base = FLEN` (R191):
a complete window is stored, FLEN and PKT are written (R197); after a failure or a timeout FLEN and PKT stay and the
window holds free values (R198, R199). An unanswered read leaves the block waiting inside RREAD (R249), with what the
reads before it consumed gone from the transport (20_memory.md R70) and the read itself issued (R69; log entry 6). -/
def finishRead (size : Nat) (s : State) : ReadEnd × Transport → Outcome
  | (.window w, t) =>
    complete ({ s with pkt := pktAfter w }.setFrame (s.fb.writeBytes s.flen.toNat w) (s.flen.toNat + size)
      |>.setTransport t)
  | (.comm e, t) => raise .comm ({ s with terr := e }.loseWindow s.flen.toNat size |>.setTransport t)
  | (.timeout, t) => raise .timeout (s.loseWindow s.flen.toNat size |>.setTransport t)
  | (.unanswered r, t) => .next (s.setWaiting (some r) |>.setTransport t)

/-- RREAD size (R191). A read of no bytes, or one that does not fit, is LENGTH before any transport access (R192). -/
def execRread (size : Half) (s : State) : Outcome :=
  if size = 0#16 then raise .length s
  else if fbufSize < s.flen.toNat + size.toNat then raise .length s
  else finishRead size.toNat s (resync s.config.filler s.pkt size.toNat s.transport)

/-- RREAD goes on where it waits (R249): at the read `r`. The window of a waiting read fits FB (R192); one that does
not, in a state no run reaches, names bytes that do not exist (20_memory.md R63, log entry 11). -/
def resumeRread (r : Reading) (s : State) : Outcome :=
  if fbufSize < s.flen.toNat + r.size then .fault .frameAddress
  else finishRead r.size (s.setWaiting none) (goOn s.config.filler s.pkt r s.transport)

end Sys2Proof.Machine
end

