-- ==== Sys2Proof/Machine/Dispatch.lean ====
section
/-! DEFINITION. What each command does, one arm per constructor of Instr. -/

namespace Sys2Proof.Machine

def exec (i : Instr) (s : State) : Host.Outcome State Fault Refusal :=
  match i with
  | .setmode m => Sys2Proof.Machine.execSetmode m s
  | .clrpb => Sys2Proof.Machine.execClrpb s
  | .putpb b => Sys2Proof.Machine.execPutpb b s
  | .clrfb => Sys2Proof.Machine.execClrfb s
  | .putfb b => Sys2Proof.Machine.execPutfb b s
  | .getfb idx => Sys2Proof.Machine.execGetfb idx s
  | .sum16 src => Sys2Proof.Machine.execSum16 src s
  | .crc16 src => Sys2Proof.Machine.execCrc16 src s
  | .csum16 src => Sys2Proof.Machine.execCsum16 src s
  | .crc32c src => Sys2Proof.Machine.execCrc32c src s
  | .build id => Sys2Proof.Machine.execBuild id s
  | .benter => Sys2Proof.Machine.execBenter s
  | .bexit => Sys2Proof.Machine.execBexit s
  | .bsend => Sys2Proof.Machine.execBsend s
  | .bsendnr => Sys2Proof.Machine.execBsendnr s
  | .bprog => Sys2Proof.Machine.execBprog s
  | .bverify => Sys2Proof.Machine.execBverify s
  | .berase => Sys2Proof.Machine.execBerase s
  | .bvchk app => Sys2Proof.Machine.execBvchk app s
  | .bmeta app => Sys2Proof.Machine.execBmeta app s
  | .beiv => Sys2Proof.Machine.execBeiv s
  | .pdefault => Sys2Proof.Machine.execPdefault s
  | .pcustom status len => Sys2Proof.Machine.execPcustom status len s
  | .penter => Sys2Proof.Machine.execPenter s
  | .pvchk => Sys2Proof.Machine.execPvchk s
  | .ptry => Sys2Proof.Machine.execPtry s
  | .rread size => Sys2Proof.Machine.execRread size s

end Sys2Proof.Machine
end

