-- ==== Sys2Proof/Machine/Access.lean ====
section
/-! DEFINITION. The host's accesses to the register port (spec 20_memory.md R62, 10_state.md R36 to R39). -/

namespace Sys2Proof.Machine

/-- The command word `w` runs; a reserved OPC changes nothing except `ERR <- CMDERR` (30_encoding.md R93). -/
def runCommand (w : Word) (s : State) : Outcome :=
  match decode w with
  | .ok i => exec i s
  | .error _ => raise .cmderr s

/-- `RegWrite(n, v)`: a write to CMD stores the word, then runs it (R37); ARG0 and ARG1 are stored (R36); every
other number ignores the write (R38). -/
def regWrite (n : Byte) (v : Word) (s : State) : Outcome :=
  match n.toNat with
  | 0x00 => runCommand v (s.setCmd v)
  | 0x01 => .next { s with arg0 := v }
  | 0x02 => .next { s with arg1 := v }
  | _ => .next s

/-- One host access (R62). A read changes nothing but what the host has received (R39). -/
def access : Access → State → Outcome
  | .write n v, s => regWrite n v s
  | .read n, s => .next (s.receive (regRead s n))

end Sys2Proof.Machine
end

