-- ==== Sys2Proof/Machine/Step.lean ====
section
/-! DEFINITION. One step of the machine: one host access, or the wait for one. -/

namespace Sys2Proof.Machine

/-- A refused launch never runs (R249). A command waiting inside RREAD goes on before the host can make its next
access, since its write has not completed (20_memory.md R62). Else the host's next access is made (R22, R73). With no
access left the block waits and nothing changes (R263). -/
def step (s : State) : Host.Outcome State Fault Refusal :=
  match launchRefusal s with
  | some r => .refused r
  | none =>
    match s.waiting with
    | some r => resumeRread r s
    | none =>
      match nextAccess s with
      | none => .next s
      | some a => access a s.advance

/-- `s` with the host about to write the command word `w` (its `nbits` low bits) to CMD: the access at the host's
program counter is that write, and no earlier command is still waiting. Nothing else changes (log entry 10). -/
def State.withFetchWord (s : State) (nbits w : Nat) : State :=
  { s with
    host := { s.host with program := placeAccess s.host.program s.host.pc (.write 0#8 (tableWord nbits w)) }
    waiting := none }

end Sys2Proof.Machine
end

