-- ==== Sys2Proof/Machine/Pseudo.lean ====
section
/-! DEFINITION. The assembler's commands and pseudo-instructions as lists of host accesses (spec 30_encoding.md R98,
R99). -/

namespace Sys2Proof.Machine

/-- A command mnemonic stands for `WR CMD, w` (R98). -/
def writeCommand (i : Instr) : Access := .write 0x00#8 (encode i)

/-- LOADPB b0, …, bk-1 (R99). -/
def loadPb (bytes : List Byte) : List Access := writeCommand .clrpb :: bytes.map fun b => writeCommand (.putpb b)

/-- LOADFB b0, …, bk-1 (R99). -/
def loadFb (bytes : List Byte) : List Access := writeCommand .clrfb :: bytes.map fun b => writeCommand (.putfb b)

/-- MODE.SUM (R99). -/
def modeSum : List Access := [writeCommand (.setmode .sumComplement)]

/-- MODE.CRC (R99). -/
def modeCrc : List Access := [writeCommand (.setmode .crc16Ccitt)]

/-- CHECKSUM16 s is CSUM16 s (R99). -/
def checksum16Command (src : Src) : Instr := .csum16 src

/-- CUSTOM id is BUILD id (R99). -/
def customCommand (id : Byte) : Instr := .build id

/-- ARGS a0, a1 (R99). -/
def argsAccesses (a0 a1 : Word) : List Access := [.write 0x01#8 a0, .write 0x02#8 a1]

end Sys2Proof.Machine
end

