-- ==== Sys2Proof/Safety.lean ====
section
/-! DEFINITION. What a good state is: the invariants the spec states of the block's registers and buffers, and the
terms the statements are written in. -/

namespace Sys2Proof.Machine

/-- RREAD of `size` bytes is not refused (R192). -/
def State.fits (s : State) (size : Half) : Prop := size ≠ 0#16 ∧ s.flen.toNat + size.toNat ≤ 4103

/-- A read an RREAD of `size` bytes can wait for (43_resync.md R191, R194, R195): only the raw read with PKT = 1, at
most ten retries, a tail or refill of at least one byte behind what is no filler. -/
def Reading.legal (filler : Byte) (pkt : Bool) (size : Nat) : Reading → Prop
  | .raw n => n = size
  | .retry n left => n = size ∧ left < retryMax ∧ pkt = false
  | .tail good k => k + 1 = size ∧ 0 < k ∧ good ≠ filler ∧ pkt = false
  | .refill good k => good.length + k = size ∧ 0 < k ∧ good ≠ [] ∧ good.head? ≠ some filler ∧ pkt = false

/-- The invariant of the block. -/
structure State.Inv (s : State) : Prop where
  /-- `PLEN ≤ 4096` after every command (10_state.md R28). -/
  plen_le : s.plen.toNat ≤ pbufSize
  /-- `FLEN ≤ 4103` after every command (R29). -/
  flen_le : s.flen.toNat ≤ fbufSize
  /-- PB holds bytes at 0 to 4095 only, in canonical form (R40). -/
  pb_wf : s.pb.wf pbufSize
  /-- FB holds bytes at 0 to 4102 only, in canonical form (R40). -/
  fb_wf : s.fb.wf fbufSize
  /-- ERR holds one of the values of 60_exceptions.md R241. -/
  err_legal : isResultCode s.err = true
  /-- Only an RREAD that fits waits, for a read it can wait for and that is the last one issued (20_memory.md R66, R69,
  R249). -/
  waits_in_rread : ∀ r, s.waiting = some r → ∃ size, decode s.cmd = .ok (.rread size) ∧ s.fits size ∧
    r.legal s.config.filler s.pkt size.toNat ∧ s.transport.reads.getLast? = some r.count

/-- A launch the model admits (60_exceptions.md R249): FILLER ≠ START and exactly one host. -/
def State.admitted (s : State) : Bool := s.config.wellFormed && oneHost s.extraHosts

/-- Two states a host cannot tell apart (10_state.md R40): they agree on everything but the bytes of PB at or above
PLEN and of FB at or above FLEN. -/
structure State.sameValid (s t : State) : Prop where
  /-- Every field but the two buffers. -/
  fields : { s with pb := t.pb, fb := t.fb } = t
  payload_eq : ∀ a < s.plen.toNat, s.pb.read a = t.pb.read a
  frame_eq : ∀ a < s.flen.toNat, s.fb.read a = t.fb.read a

/-- The codes a command can report (60_exceptions.md R243). -/
def mayReport : Instr → ResultCode → Bool
  | .setmode _, c | .clrpb, c | .clrfb, c => c == .ok
  | .sum16 _, c | .crc16 _, c | .csum16 _, c | .crc32c _, c => c == .ok
  | .build _, c | .benter, c | .bexit, c | .bsend, c | .bsendnr, c => c == .ok
  | .berase, c | .bvchk _, c | .bmeta _, c => c == .ok
  | .putpb _, c | .putfb _, c | .getfb _, c | .bprog, c | .bverify, c | .beiv, c => c == .ok || c == .length
  | .pdefault, c | .penter, c | .pvchk, c =>
    match c with
    | .ok | .length | .data => true
    | .btldr s => s != 0#8
    | .cmderr | .unknown | .response | .timeout | .comm => false
  | .pcustom st _, c =>
    match c with
    | .ok | .length | .data => true
    | .response => st != 0#8
    | .btldr s => s != 0#8
    | .cmderr | .unknown | .timeout | .comm => false
  | .ptry, c => c == .ok || c == .unknown
  | .rread _, c => c == .ok || c == .length || c == .timeout || c == .comm

/-! ### What the statements say of a command's effect -/

/-- `t` is `s` after a builder put the frame of `id` and `p` in FB (spec 41_framer_build.md R132): ERR is OK, FLEN is
the frame's length, FB[0..len+7) is the frame, every other byte of FB and every other field is as before. -/
def State.frameBuilt (s t : State) (id : Byte) (p : List Byte) : Prop :=
  t = { s with fb := t.fb, flen := t.flen, err := 0x0000#16 } ∧
  t.flen.toNat = p.length + 7 ∧
  ∀ a, t.fb.read a = ((frame id p s.mode)[a]?).getD (s.fb.read a)

/-- `t` is `s` after a successful RREAD of the window `w` (43_resync.md R191): the window stands at FLEN, FLEN has
advanced, PKT is 0 exactly when the final byte is STOP (R197), ERR is OK, the transport is left with `rest` after
reads of the sizes `sizes`, and every other byte of FB and every other field is as before. -/
def State.windowRead (s t : State) (w : List Byte) (rest : List TEvent) (sizes : List Nat) : Prop :=
  t = { s with fb := t.fb, flen := t.flen, pkt := t.pkt, err := 0x0000#16,
               transport := ⟨rest, s.transport.reads ++ sizes⟩ } ∧
  t.flen.toNat = s.flen.toNat + w.length ∧
  (t.pkt = false ↔ w.getLast? = some 0x17#8) ∧
  ∀ a, t.fb.read a = if a < s.flen.toNat then s.fb.read a else (w[a - s.flen.toNat]?).getD (s.fb.read a)

/-- `t` is `s` after an RREAD of `size` bytes that failed with the code `code` (R198, R199): TERR is `terr`, the
transport is left with `rest` after reads of the sizes `sizes`; FLEN, PKT and every other field are as before, and
so is every byte of FB outside the window. -/
def State.readFailed (s t : State) (size : Nat) (code : Half) (terr : Word) (rest : List TEvent) (sizes : List Nat) :
    Prop :=
  t = { s with fb := t.fb, freeCount := t.freeCount, terr := terr, err := code,
               transport := ⟨rest, s.transport.reads ++ sizes⟩ } ∧
  ∀ a, a < s.flen.toNat ∨ s.flen.toNat + size ≤ a → t.fb.read a = s.fb.read a

/-- FB holds a response frame of data length `d` whose markers and length field are right (42_framer_parse.md R161
steps 1 and 3). -/
def State.wellMarked (s : State) (d : Nat) : Prop :=
  s.flen.toNat = d + 7 ∧ s.fb.read 0 = 0x01#8 ∧
  (s.fb.read 2).toNat + 256 * (s.fb.read 3).toNat = d ∧ s.fb.read (s.flen.toNat - 1) = 0x17#8

/-- The stored checksum is the checksum of the `4 + d` bytes before it, in the current mode (R161 step 4, R177). -/
def State.checksumRight (s : State) (d : Nat) : Prop :=
  (s.fb.read (4 + d)).toNat + 256 * (s.fb.read (5 + d)).toNat
    = (checksum16 ((List.range (4 + d)).map s.fb.read) s.mode).toNat

/-- The block may run the host's next access: an admitted launch, and no command is waiting. -/
def State.ready (s : State) : Prop := s.admitted = true ∧ s.waiting = none

/-- The builders of 41_framer_build.md. -/
def isBuilder : Instr → Bool
  | .build _ | .benter | .bexit | .bsend | .bsendnr | .bprog | .bverify | .berase | .bvchk _ | .bmeta _ | .beiv => true
  | .setmode _ | .clrpb | .putpb _ | .clrfb | .putfb _ | .getfb _ | .sum16 _ | .crc16 _ | .csum16 _ | .crc32c _ => false
  | .pdefault | .pcustom _ _ | .penter | .pvchk | .ptry | .rread _ => false

/-- The parse commands of 42_framer_parse.md. -/
def isParse : Instr → Bool
  | .pdefault | .pcustom _ _ | .penter | .pvchk | .ptry => true
  | .setmode _ | .clrpb | .putpb _ | .clrfb | .putfb _ | .getfb _ | .sum16 _ | .crc16 _ | .csum16 _ | .crc32c _ => false
  | .build _ | .benter | .bexit | .bsend | .bsendnr | .bprog | .bverify | .berase | .bvchk _ | .bmeta _ | .beiv => false
  | .rread _ => false

/-- RREAD, of any size. -/
def isRread : Instr → Bool
  | .rread _ => true
  | .setmode _ | .clrpb | .putpb _ | .clrfb | .putfb _ | .getfb _ | .sum16 _ | .crc16 _ | .csum16 _ | .crc32c _ => false
  | .build _ | .benter | .bexit | .bsend | .bsendnr | .bprog | .bverify | .berase | .bvchk _ | .bmeta _ | .beiv => false
  | .pdefault | .pcustom _ _ | .penter | .pvchk | .ptry => false

end Sys2Proof.Machine
end

