-- ==== Sys2Proof/Certificates/Slice0/Obligations.lean ====
section
/-! DEFINITION. The statements about the model, for the provers. Each docstring names the rules of spec/ it
formalises. A statement about a state holds for every parameter set, host program and transport stream, since State
holds them. -/

open Sys2Proof Sys2Proof.Machine

/-! ### Command words -/

/-- Words written out from the opcode map (30_encoding.md R81, R92; 95_test_vectors.md V-ENC, V-MODE, V-PORT, V-CHKCMD,
V-BLD, V-PRS, V-RR), one or more of every family, with unused bits set in some (R82). -/
def Obligations.SampleWordsDecode : Prop :=
  decode 0x00000101#32 = .ok (.setmode .crc16Ccitt) ∧ decode 0x00000201#32 = .ok (.setmode .sumComplement) ∧
  decode 0xABCD0002#32 = .ok .clrpb ∧ decode 0x00003103#32 = .ok (.putpb 0x31#8) ∧
  decode 0x10060006#32 = .ok (.getfb 4102#16) ∧ decode 0x0000FE10#32 = .ok (.sum16 .pb) ∧
  decode 0x00000113#32 = .ok (.crc32c .fb) ∧ decode 0x00009920#32 = .ok (.build 0x99#8) ∧
  decode 0xFFFF0022#32 = .ok .bexit ∧ decode 0x00000129#32 = .ok (.bmeta 0x01#8) ∧
  decode 0x00023731#32 = .ok (.pcustom 0x37#8 2#16) ∧ decode 0x00000034#32 = .ok .ptry ∧
  decode 0x00070040#32 = .ok (.rread 7#16) ∧ decode 0x12345607#32 = .error (.reservedOpcode 0x07#8)

/-- Encoding a well-formed command and decoding the word gives the command back, for every operand. -/
def Obligations.EncodedCommandsDecodeBack : Prop :=
  ∀ i : Instr, i.wellFormed = true → decode (encode i) = .ok i

/-- A word decodes to a command exactly when its used bits are the command's encoding; the other bits are ignored
(30_encoding.md R81, R82, R92, R94). -/
def Obligations.DecodingReadsExactlyTheUsedBits : Prop :=
  ∀ (w : Word) (i : Instr), decode w = .ok i ↔ w &&& i.usedBits = encode i

/-- R93: the reserved OPC values are those listed; a reserved word changes nothing except ERR, and is stored in CMD. -/
def Obligations.ReservedWordsReportCmderr : Prop :=
  (∀ w : Word, decode w = .error (.reservedOpcode (w.extractLsb' 0 8)) ↔
    (w.extractLsb' 0 8).toNat = 0x00 ∨
    (0x07 ≤ (w.extractLsb' 0 8).toNat ∧ (w.extractLsb' 0 8).toNat ≤ 0x0F) ∨
    (0x14 ≤ (w.extractLsb' 0 8).toNat ∧ (w.extractLsb' 0 8).toNat ≤ 0x1F) ∨
    (0x2B ≤ (w.extractLsb' 0 8).toNat ∧ (w.extractLsb' 0 8).toNat ≤ 0x2F) ∨
    (0x35 ≤ (w.extractLsb' 0 8).toNat ∧ (w.extractLsb' 0 8).toNat ≤ 0x3F) ∨
    0x41 ≤ (w.extractLsb' 0 8).toNat) ∧
  (∀ (s : State) (w : Word) (e : DecodeError), s.ready → nextAccess s = some (.write 0x00#8 w) → decode w = .error e →
    step s = .next { s with cmd := w, err := 0x0005#16, host := { s.host with pc := s.host.pc + 1 } }) ∧
  (∀ w : Word, w.extractLsb' 0 8 = 0x20#8 → decode w = .ok (.build (w.extractLsb' 8 8)))

/-! ### One step -/

/-- A host write of a command word to CMD stores the word and runs the command it decodes to; around `exec` a step only
stores CMD and moves the host to its next access (10_state.md R37, R22; 20_memory.md R62). -/
def Obligations.StepRunsTheDecodedCommand : Prop :=
  ∀ (s : State) (w : Word) (i : Instr), s.ready → nextAccess s = some (.write 0x00#8 w) → decode w = .ok i →
    i.wellFormed = true →
    step s = exec i { s with cmd := w, host := { s.host with pc := s.host.pc + 1 } }

/-- R36 and R38: a write to ARG0 or ARG1 stores the value and a read returns it; a write to any number from 0x03 up is
ignored and changes no register, not even ERR; numbers 0x11 to 0xFF read 0; no command writes ARG0 or ARG1. -/
def Obligations.RegisterWrites : Prop :=
  (∀ (s : State) (v : Word), s.ready → nextAccess s = some (.write 0x01#8 v) →
    step s = .next { s with arg0 := v, host := { s.host with pc := s.host.pc + 1 } }) ∧
  (∀ (s : State) (v : Word), s.ready → nextAccess s = some (.write 0x02#8 v) →
    step s = .next { s with arg1 := v, host := { s.host with pc := s.host.pc + 1 } }) ∧
  (∀ (s : State) (n : Byte) (v : Word), s.ready → 0x03 ≤ n.toNat → nextAccess s = some (.write n v) →
    step s = .next { s with host := { s.host with pc := s.host.pc + 1 } }) ∧
  (∀ s : State, regRead s 0x01#8 = s.arg0 ∧ regRead s 0x02#8 = s.arg1) ∧
  (∀ (s : State) (n : Byte), 0x11 ≤ n.toNat → regRead s n = 0#32) ∧
  (∀ (i : Instr) (s t : State), exec i s = .next t → t.arg0 = s.arg0 ∧ t.arg1 = s.arg1)

/-- R39, R62 and the map of 10_state.md R23: a register read hands the host the register's value, with the bits above
its width 0, and changes nothing else. -/
def Obligations.RegisterReads : Prop :=
  (∀ (s : State) (n : Byte), s.ready → nextAccess s = some (.read n) →
    step s = .next { s with host := { s.host with
      pc := s.host.pc + 1, received := s.host.received ++ [regRead s n] } }) ∧
  (∀ s : State,
    regRead s 0x00#8 = s.cmd ∧ regRead s 0x01#8 = s.arg0 ∧ regRead s 0x02#8 = s.arg1 ∧
    (regRead s 0x03#8).toNat = s.err.toNat ∧ (regRead s 0x04#8).toNat = s.status.toNat ∧
    (regRead s 0x05#8).toNat = (match s.mode with | .sumComplement => 0 | .crc16Ccitt => 1) ∧
    (regRead s 0x06#8).toNat = (if s.pkt then 1 else 0) ∧
    (regRead s 0x07#8).toNat = s.plen.toNat ∧ (regRead s 0x08#8).toNat = s.flen.toNat ∧
    (regRead s 0x09#8).toNat = s.chk16.toNat ∧ regRead s 0x0A#8 = s.crc32 ∧ regRead s 0x0B#8 = s.siid ∧
    (regRead s 0x0C#8).toNat = s.sirev.toNat ∧ (regRead s 0x0D#8).toNat = s.blver.toNat ∧
    (regRead s 0x0E#8).toNat = (if s.ckvalid then 1 else 0) ∧
    (regRead s 0x0F#8).toNat = s.rdata.toNat ∧ regRead s 0x10#8 = s.terr)

/-- R7, R61 and R249: a launch with FILLER = START is refused, one with a second host is refused, and no admitted launch
ever is. That every step tests the launch, and which of the two refusals a launch that breaks both rules gets, is the
model's choice, log entry 9. -/
def Obligations.RefusedLaunches : Prop :=
  (∀ s : State, s.config.filler = 0x01#8 ∨ s.extraHosts ≠ 0 → ∃ r, step s = .refused r) ∧
  (∀ s : State, s.config.filler = 0x01#8 → s.extraHosts = 0 → step s = .refused .fillerIsStart) ∧
  (∀ s : State, s.config.filler ≠ 0x01#8 → s.extraHosts ≠ 0 → step s = .refused .secondHost) ∧
  (∀ (s : State) (r : Refusal), s.admitted = true → step s ≠ .refused r)

/-- With no access left in the host's program the block waits and nothing changes (70_reset_and_hazards.md R263). That
the wait is a step that changes nothing is the model's choice (log entry 8). -/
def Obligations.BlockWaitsForTheHost : Prop :=
  ∀ s : State, s.ready → nextAccess s = none → step s = .next s

/-! ### Reset -/

/-- R261: what reset leaves in every register. -/
def Obligations.ResetLeavesZeroRegisters : Prop :=
  State.reset.cmd = 0#32 ∧ State.reset.arg0 = 0#32 ∧ State.reset.arg1 = 0#32 ∧ State.reset.err = 0#16 ∧
  State.reset.status = 0#8 ∧ State.reset.chk16 = 0#16 ∧ State.reset.crc32 = 0#32 ∧ State.reset.siid = 0#32 ∧
  State.reset.sirev = 0#8 ∧ State.reset.blver = 0#24 ∧ State.reset.rdata = 0#8 ∧ State.reset.terr = 0#32 ∧
  State.reset.mode = .sumComplement ∧ State.reset.pkt = false ∧ State.reset.plen = 0#13 ∧ State.reset.flen = 0#13 ∧
  State.reset.ckvalid = false

/-- The invariant holds at reset. -/
def Obligations.ResetMeetsTheInvariant : Prop := State.reset.Inv

/-! ### Invariants and whole-machine rules -/

/-- Every step keeps the invariant: `PLEN ≤ 4096` (R28), `FLEN ≤ 4103` (R29), the buffers hold bytes inside their size
in canonical form (R40), ERR holds a value of R241, and only an RREAD that fits waits, for a read it can wait for, the
last one issued (20_memory.md R66, R69). -/
def Obligations.EveryStepKeepsTheInvariant : Prop :=
  ∀ s t : State, s.Inv → step s = .next t → t.Inv

/-- In a state that meets the invariant, every command answers a next state, and so does every step of an admitted
launch: the block has no traps and no error stops it (60_exceptions.md R245, R248). With no command under way before it,
every command but RREAD completes; RREAD may wait for the transport (R249, 70_reset_and_hazards.md R282). -/
def Obligations.NothingStopsAGoodState : Prop :=
  (∀ (i : Instr) (s : State), s.Inv → ∃ t, exec i s = .next t ∧
    (isRread i = false → s.waiting = none → t.waiting = none)) ∧
  (∀ s : State, s.Inv → s.admitted = true → ∃ t, step s = .next t)

/-- R243: a command that completes reports a code the table gives it, and no other. -/
def Obligations.CommandsReportOnlyTheirCodes : Prop :=
  ∀ (i : Instr) (s t : State), s.Inv → exec i s = .next t → t.waiting = none →
    ∃ c, mayReport i c = true ∧ t.err = c.bits

/-- R242: bit 14 tags a device status, which is the low byte and not 0; bit 13 tags a transport failure; no code sets
both. For every value ERR can hold, and for the codes by name. -/
def Obligations.ErrorTagBits : Prop :=
  (∀ e : Half, isResultCode e = true →
    ¬ (e.getLsbD 14 = true ∧ e.getLsbD 13 = true) ∧
    (e.getLsbD 14 = true → e.extractLsb' 0 8 ≠ 0#8 ∧ e = (ResultCode.btldr (e.extractLsb' 0 8)).bits) ∧
    (e.getLsbD 13 = true → e = ResultCode.comm.bits)) ∧
  (∀ s : Byte, s ≠ 0#8 → isResultCode (ResultCode.btldr s).bits = true ∧
    (ResultCode.btldr s).bits.getLsbD 14 = true ∧ (ResultCode.btldr s).bits.extractLsb' 0 8 = s) ∧
  ResultCode.comm.bits.getLsbD 13 = true

/-- R244: a command that ends with an error leaves the state as it was, except for ERR, STATUS on BTLDR and RESPONSE,
TERR on COMM, what RREAD consumed of the transport, and, for RREAD's TIMEOUT and COMM, bytes of FB at or above FLEN. -/
def Obligations.ErrorsArePrecise : Prop :=
  ∀ (i : Instr) (s t : State), exec i s = .next t → t.waiting = none → t.err ≠ 0x0000#16 →
    t = { s with err := t.err, status := t.status, terr := t.terr, fb := t.fb, freeCount := t.freeCount,
                 transport := t.transport } ∧
    (t.status ≠ s.status → t.err = 0x0010#16 ∨ t.err.getLsbD 14 = true) ∧
    (t.terr ≠ s.terr → t.err = 0x2000#16) ∧
    (t.transport ≠ s.transport → isRread i = true ∧ (t.err = 0x2000#16 ∨ t.err = 0x0011#16)) ∧
    (t.fb ≠ s.fb → isRread i = true ∧ (t.err = 0x2000#16 ∨ t.err = 0x0011#16)) ∧
    (∀ a < s.flen.toNat, t.fb.read a = s.fb.read a)

/-- The "written by" column of 10_state.md R23, and R40 for the buffers: no command writes CMD, ARG0, ARG1, the host or
the parameters, and every other register and buffer is changed only by the commands the map names for it. -/
def Obligations.RegistersHaveOnlyTheirWriters : Prop :=
  ∀ (i : Instr) (s t : State), exec i s = .next t →
    (t.cmd = s.cmd ∧ t.arg0 = s.arg0 ∧ t.arg1 = s.arg1 ∧ t.host = s.host ∧ t.extraHosts = s.extraHosts ∧
      t.config = s.config) ∧
    (t.status ≠ s.status → isParse i = true) ∧
    (t.mode ≠ s.mode → ∃ m, i = .setmode m) ∧
    (t.pkt ≠ s.pkt → isRread i = true) ∧
    (t.plen ≠ s.plen → i = .clrpb ∨ ∃ b, i = .putpb b) ∧
    (t.pb ≠ s.pb → ∃ b, i = .putpb b) ∧
    (t.flen ≠ s.flen → i = .clrfb ∨ (∃ b, i = .putfb b) ∨ isBuilder i = true ∨ isRread i = true) ∧
    (t.fb ≠ s.fb → (∃ b, i = .putfb b) ∨ isBuilder i = true ∨ isRread i = true) ∧
    (t.chk16 ≠ s.chk16 → ∃ src, i = .sum16 src ∨ i = .crc16 src ∨ i = .csum16 src) ∧
    (t.crc32 ≠ s.crc32 → ∃ src, i = .crc32c src) ∧
    (t.siid ≠ s.siid ∨ t.sirev ≠ s.sirev ∨ t.blver ≠ s.blver → i = .penter) ∧
    (t.ckvalid ≠ s.ckvalid → i = .pvchk) ∧
    (t.rdata ≠ s.rdata → ∃ h, i = .getfb h) ∧
    (t.terr ≠ s.terr ∨ t.transport ≠ s.transport ∨ t.waiting ≠ s.waiting ∨ t.freeCount ≠ s.freeCount →
      isRread i = true)

/-- R40: bytes at or above a fill count are unobservable. Two states that differ only in such bytes step alike: they
stop alike, or go to states that again differ only in such bytes (every register, and so everything a host reads, is
equal). -/
def Obligations.HiddenBytesAreUnobservable : Prop :=
  ∀ s t : State, s.sameValid t →
    (∀ s', step s = .next s' → ∃ t', step t = .next t' ∧ s'.sameValid t') ∧
    (∀ f, step s = .fault f → step t = .fault f) ∧
    (∀ r, step s = .refused r → step t = .refused r)

/-- R245: no error is sticky. What a command does, its result code included, does not depend on the code the last
command left (a command still waiting for the transport has written none yet). -/
def Obligations.ErrorsAreNotSticky : Prop :=
  ∀ (i : Instr) (s t : State) (e : Half), s.waiting = none → exec i s = .next t →
    exec i { s with err := e } = .next (if t.waiting = none then t else { t with err := e })

/-- R70: repeating a command other than RREAD, PUTPB or PUTFB gives the same result. -/
def Obligations.CommandsAreIdempotent : Prop :=
  ∀ (i : Instr) (s t : State), isRread i = false → (∀ b, i ≠ .putpb b) → (∀ b, i ≠ .putfb b) →
    exec i s = .next t → exec i t = .next t

/-! ### Mode and buffer port -/

/-- R111: SETMODE. -/
def Obligations.SetmodeSetsTheMode : Prop :=
  (∀ w : Word, w.extractLsb' 0 8 = 0x01#8 →
    decode w = .ok (.setmode (if w.getLsbD 8 then .crc16Ccitt else .sumComplement))) ∧
  (∀ (m : ChecksumMode) (s : State), exec (.setmode m) s = .next { s with mode := m, err := 0x0000#16 })

/-- R221 and R225: CLRPB and CLRFB empty a buffer; its bytes, and PKT, stay. -/
def Obligations.ClearCommandsEmptyABuffer : Prop :=
  (∀ w : Word, w.extractLsb' 0 8 = 0x02#8 → decode w = .ok .clrpb) ∧
  (∀ w : Word, w.extractLsb' 0 8 = 0x04#8 → decode w = .ok .clrfb) ∧
  (∀ s : State, exec .clrpb s = .next { s with plen := 0#13, err := 0x0000#16 }) ∧
  (∀ s : State, exec .clrfb s = .next { s with flen := 0#13, err := 0x0000#16 })

/-- R223: PUTPB appends its byte to PB, or reports LENGTH where PB is full. -/
def Obligations.PutpbAppends : Prop :=
  (∀ w : Word, w.extractLsb' 0 8 = 0x03#8 → decode w = .ok (.putpb (w.extractLsb' 8 8))) ∧
  (∀ (b : Byte) (s : State), s.plen.toNat = 4096 → exec (.putpb b) s = .next { s with err := 0x0003#16 }) ∧
  (∀ (b : Byte) (s : State), s.plen.toNat < 4096 →
    ∃ t, exec (.putpb b) s = .next t ∧ t = { s with pb := t.pb, plen := t.plen, err := 0x0000#16 } ∧
      t.plen.toNat = s.plen.toNat + 1 ∧
      ∀ a, t.pb.read a = if a = s.plen.toNat then b else s.pb.read a)

/-- R227: PUTFB appends its byte to FB, or reports LENGTH where FB is full; PKT is not touched. -/
def Obligations.PutfbAppends : Prop :=
  (∀ w : Word, w.extractLsb' 0 8 = 0x05#8 → decode w = .ok (.putfb (w.extractLsb' 8 8))) ∧
  (∀ (b : Byte) (s : State), s.flen.toNat = 4103 → exec (.putfb b) s = .next { s with err := 0x0003#16 }) ∧
  (∀ (b : Byte) (s : State), s.flen.toNat < 4103 →
    ∃ t, exec (.putfb b) s = .next t ∧ t = { s with fb := t.fb, flen := t.flen, err := 0x0000#16 } ∧
      t.flen.toNat = s.flen.toNat + 1 ∧
      ∀ a, t.fb.read a = if a = s.flen.toNat then b else s.fb.read a)

/-- R229: GETFB reads FB[H] into RDATA, or reports LENGTH for an index at or beyond FLEN. -/
def Obligations.GetfbReadsOneByte : Prop :=
  (∀ w : Word, w.extractLsb' 0 8 = 0x06#8 → decode w = .ok (.getfb (w.extractLsb' 16 16))) ∧
  (∀ (h : Half) (s : State), s.flen.toNat ≤ h.toNat → exec (.getfb h) s = .next { s with err := 0x0003#16 }) ∧
  (∀ (h : Half) (s : State), s.flen.toNat ≤ 4103 → h.toNat < s.flen.toNat →
    exec (.getfb h) s = .next { s with rdata := s.fb.read h.toNat, err := 0x0000#16 })

/-- R99: LOADPB and LOADFB, run to their end, leave exactly the given bytes in PB and FB, with the fill count their
number; every other register but CMD is as before. -/
def Obligations.LoadsFillTheBuffers : Prop :=
  (∀ (s : State) (bytes : List Byte) (more : List Access), s.ready → bytes.length ≤ 4096 →
    s.host.program.drop s.host.pc = loadPb bytes ++ more →
    ∃ t, Host.Core.run Sys2Proof.core (bytes.length + 1) s = .next t ∧
      t = { s with cmd := t.cmd, err := 0x0000#16, pb := t.pb, plen := t.plen,
                   host := { s.host with pc := s.host.pc + bytes.length + 1 } } ∧
      t.plen.toNat = bytes.length ∧ ∀ a, t.pb.read a = (bytes[a]?).getD (s.pb.read a)) ∧
  (∀ (s : State) (bytes : List Byte) (more : List Access), s.ready → bytes.length ≤ 4103 →
    s.host.program.drop s.host.pc = loadFb bytes ++ more →
    ∃ t, Host.Core.run Sys2Proof.core (bytes.length + 1) s = .next t ∧
      t = { s with cmd := t.cmd, err := 0x0000#16, fb := t.fb, flen := t.flen,
                   host := { s.host with pc := s.host.pc + bytes.length + 1 } } ∧
      t.flen.toNat = bytes.length ∧ ∀ a, t.fb.read a = (bytes[a]?).getD (s.fb.read a))

/-! ### Checksum engine -/

/-- R112: sum16 is the two's-complement negation of the byte sum modulo 2^16, and 0 for the empty input. -/
def Obligations.Sum16NegatesTheByteSum : Prop :=
  (∀ s : List Byte, sum16 s = -(BitVec.ofNat 16 (s.map BitVec.toNat).sum)) ∧
  (∀ s : List Byte, sum16 s + BitVec.ofNat 16 (s.map BitVec.toNat).sum = 0#16) ∧
  sum16 [] = 0#16

/-- R121: sum16 depends only on the multiset of bytes: reordering and appended zero bytes leave it unchanged. -/
def Obligations.Sum16DependsOnTheMultiset : Prop :=
  (∀ s t : List Byte, s.Perm t → sum16 s = sum16 t) ∧
  (∀ (s : List Byte) (n : Nat), sum16 (s ++ List.replicate n 0x00#8) = sum16 s)

/-- R121: changing one byte (so every single-bit change) changes the CRC-16 and the CRC-32C. -/
def Obligations.CrcsDetectAChangedByte : Prop :=
  ∀ (p q : List Byte) (a b : Byte), a ≠ b →
    crc16Ccitt (p ++ a :: q) ≠ crc16Ccitt (p ++ b :: q) ∧ crc32c (p ++ a :: q) ≠ crc32c (p ++ b :: q)

/-- R121: crc16_ccitt and crc32c are affine over GF(2) in the bits of the input, for a fixed length. -/
def Obligations.CrcsAreAffine : Prop :=
  ∀ s t u : List Byte, s.length = t.length → t.length = u.length →
    crc16Ccitt (List.zipWith (· ^^^ ·) (List.zipWith (· ^^^ ·) s t) u)
      = crc16Ccitt s ^^^ crc16Ccitt t ^^^ crc16Ccitt u ∧
    crc32c (List.zipWith (· ^^^ ·) (List.zipWith (· ^^^ ·) s t) u) = crc32c s ^^^ crc32c t ^^^ crc32c u

/-- R120: the nibble-wise table form gives the bit-serial CRC-32C for every input, and its table is the bit-serial
reduction of 0 to 15. -/
def Obligations.NibbleTableFormAgrees : Prop :=
  (∀ s : List Byte, crc32cByNibbles s = crc32c s) ∧
  (∀ n < 16, crc32cTable[n]? = some (crc32cBits 4 (BitVec.ofNat 32 n))) ∧ crc32cTable.length = 16

/-- The check values of "123456789" and of the empty input (R113, R118; 95_test_vectors.md V-SRC-2 to V-SRC-4). -/
def Obligations.CrcCheckValues : Prop :=
  crc16Ccitt [0x31#8, 0x32#8, 0x33#8, 0x34#8, 0x35#8, 0x36#8, 0x37#8, 0x38#8, 0x39#8] = 0x6E90#16 ∧
  crc32c [0x31#8, 0x32#8, 0x33#8, 0x34#8, 0x35#8, 0x36#8, 0x37#8, 0x38#8, 0x39#8] = 0xE3069283#32 ∧
  crc16Ccitt [] = 0x0000#16 ∧ crc32c [] = 0x00000000#32

/-- R114 to R116, R119, R122 and R123: each checksum command writes its result register and ERR, and nothing else,
from the valid bytes of the buffer its source bit selects. -/
def Obligations.ChecksumCommands : Prop :=
  (∀ w : Word, w.extractLsb' 0 8 = 0x10#8 → decode w = .ok (.sum16 (if w.getLsbD 8 then .fb else .pb))) ∧
  (∀ w : Word, w.extractLsb' 0 8 = 0x11#8 → decode w = .ok (.crc16 (if w.getLsbD 8 then .fb else .pb))) ∧
  (∀ w : Word, w.extractLsb' 0 8 = 0x12#8 → decode w = .ok (.csum16 (if w.getLsbD 8 then .fb else .pb))) ∧
  (∀ w : Word, w.extractLsb' 0 8 = 0x13#8 → decode w = .ok (.crc32c (if w.getLsbD 8 then .fb else .pb))) ∧
  (∀ (src : Src) (s : State) (bytes : List Byte), s.plen.toNat ≤ 4096 → s.flen.toNat ≤ 4103 →
    bytes = (match src with
      | .pb => (List.range s.plen.toNat).map s.pb.read
      | .fb => (List.range s.flen.toNat).map s.fb.read) →
    exec (.sum16 src) s = .next { s with chk16 := sum16 bytes, err := 0x0000#16 } ∧
    exec (.crc16 src) s = .next { s with chk16 := crc16Ccitt bytes, err := 0x0000#16 } ∧
    exec (.csum16 src) s = .next { s with
      chk16 := (match s.mode with | .sumComplement => sum16 bytes | .crc16Ccitt => crc16Ccitt bytes)
      err := 0x0000#16 } ∧
    exec (.crc32c src) s = .next { s with crc32 := crc32c bytes, err := 0x0000#16 })

/-- In a state whose fill count, or whose waiting read, is past the end of its buffer (which no run reaches, R28, R29 and
R192), a command that would address a byte that does not exist faults: the model's choice, log entry 11, resting on the
sizes of 20_memory.md R63. -/
def Obligations.BytesPastABufferFault : Prop :=
  (∀ (s : State) (b : Byte), 4096 < s.plen.toNat →
    exec (.putpb b) s = .fault .payloadAddress ∧ exec (.sum16 .pb) s = .fault .payloadAddress ∧
    exec (.crc16 .pb) s = .fault .payloadAddress ∧ exec (.csum16 .pb) s = .fault .payloadAddress ∧
    exec (.crc32c .pb) s = .fault .payloadAddress) ∧
  (∀ (s : State) (b st : Byte) (h d : Half), 4103 < s.flen.toNat → 4103 ≤ h.toNat → h.toNat < s.flen.toNat →
    s.flen.toNat = d.toNat + 7 →
    exec (.putfb b) s = .fault .frameAddress ∧ exec (.getfb h) s = .fault .frameAddress ∧
    exec (.sum16 .fb) s = .fault .frameAddress ∧ exec (.crc16 .fb) s = .fault .frameAddress ∧
    exec (.csum16 .fb) s = .fault .frameAddress ∧ exec (.crc32c .fb) s = .fault .frameAddress ∧
    exec (.pcustom st d) s = .fault .frameAddress ∧ exec .ptry s = .fault .frameAddress) ∧
  (∀ (s : State) (r : Reading), s.admitted = true → s.waiting = some r → 4103 < s.flen.toNat + r.size →
    step s = .fault .frameAddress) ∧
  (∀ (i : Instr) (s : State) (f : Fault), exec i s = .fault f → 4096 < s.plen.toNat ∨ 4103 < s.flen.toNat)

/-! ### Packet framer -/

/-- R84 and R85 (and R131): the layout of a frame, and what its checksum covers. -/
def Obligations.FrameLayout : Prop :=
  ∀ (id : Byte) (p : List Byte) (mode : ChecksumMode), p.length ≤ 4096 →
    (frame id p mode).length = p.length + 7 ∧
    (frame id p mode)[0]? = some 0x01#8 ∧ (frame id p mode)[1]? = some id ∧
    (frame id p mode)[2]? = some (BitVec.ofNat 8 p.length) ∧
    (frame id p mode)[3]? = some (BitVec.ofNat 8 (p.length / 256)) ∧
    ((frame id p mode).drop 4).take p.length = p ∧
    (∃ lo hi : Byte, (frame id p mode)[4 + p.length]? = some lo ∧ (frame id p mode)[5 + p.length]? = some hi ∧
      lo.toNat + 256 * hi.toNat = (checksum16 ((frame id p mode).take (4 + p.length)) mode).toNat) ∧
    (frame id p mode)[6 + p.length]? = some 0x17#8

/-- R65: in CRC mode the two checksum bytes of a frame are the high and then the low byte of the complemented CRC
register before the swap; in SumComplement mode they are the low and then the high byte of sum16. -/
def Obligations.ChecksumBytesOnTheWire : Prop :=
  ∀ (id : Byte) (p : List Byte), p.length ≤ 4096 →
    (∀ r : Half, r = ~~~((frame id p .crc16Ccitt).take (4 + p.length)).foldl crc16Step 0xFFFF#16 →
      (frame id p .crc16Ccitt)[4 + p.length]? = some (r.extractLsb' 8 8) ∧
      (frame id p .crc16Ccitt)[5 + p.length]? = some (r.extractLsb' 0 8)) ∧
    (∀ r : Half, r = sum16 ((frame id p .sumComplement).take (4 + p.length)) →
      (frame id p .sumComplement)[4 + p.length]? = some (r.extractLsb' 0 8) ∧
      (frame id p .sumComplement)[5 + p.length]? = some (r.extractLsb' 8 8))

/-- R134, R140 and R142: BUILD, BSEND and BSENDNR frame the payload buffer as it stands. -/
def Obligations.PayloadBuildersEmit : Prop :=
  (∀ w : Word, w.extractLsb' 0 8 = 0x20#8 → decode w = .ok (.build (w.extractLsb' 8 8))) ∧
  (∀ w : Word, w.extractLsb' 0 8 = 0x23#8 → decode w = .ok .bsend) ∧
  (∀ w : Word, w.extractLsb' 0 8 = 0x24#8 → decode w = .ok .bsendnr) ∧
  (∀ (s : State) (id : Byte), s.plen.toNat ≤ 4096 →
    (∃ t, exec (.build id) s = .next t ∧ s.frameBuilt t id ((List.range s.plen.toNat).map s.pb.read)) ∧
    (∃ t, exec .bsend s = .next t ∧ s.frameBuilt t s.config.cmdSend ((List.range s.plen.toNat).map s.pb.read)) ∧
    (∃ t, exec .bsendnr s = .next t ∧ s.frameBuilt t s.config.cmdSendNr ((List.range s.plen.toNat).map s.pb.read)))

/-- R136, R138, R148, R150 and R152: the builders whose payload comes from the argument registers and the command
word. `ARG1[31:16]` is ignored by BENTER. -/
def Obligations.ArgumentBuildersEmit : Prop :=
  (∀ w : Word, w.extractLsb' 0 8 = 0x21#8 → decode w = .ok .benter) ∧
  (∀ w : Word, w.extractLsb' 0 8 = 0x22#8 → decode w = .ok .bexit) ∧
  (∀ w : Word, w.extractLsb' 0 8 = 0x27#8 → decode w = .ok .berase) ∧
  (∀ w : Word, w.extractLsb' 0 8 = 0x28#8 → decode w = .ok (.bvchk (w.extractLsb' 8 8))) ∧
  (∀ w : Word, w.extractLsb' 0 8 = 0x29#8 → decode w = .ok (.bmeta (w.extractLsb' 8 8))) ∧
  ∀ (s : State) (app : Byte) (a b : List Byte),
    a = [s.arg0.extractLsb' 0 8, s.arg0.extractLsb' 8 8, s.arg0.extractLsb' 16 8, s.arg0.extractLsb' 24 8] →
    b = [s.arg1.extractLsb' 0 8, s.arg1.extractLsb' 8 8, s.arg1.extractLsb' 16 8, s.arg1.extractLsb' 24 8] →
    (∃ t, exec .benter s = .next t ∧ s.frameBuilt t s.config.cmdEnter
      (if s.arg1.extractLsb' 0 16 = 0#16 then a else a ++ b.take 2)) ∧
    (∃ t, exec .bexit s = .next t ∧ s.frameBuilt t s.config.cmdExit []) ∧
    (∃ t, exec .berase s = .next t ∧ s.frameBuilt t s.config.cmdErase a) ∧
    (∃ t, exec (.bvchk app) s = .next t ∧ s.frameBuilt t s.config.cmdVerifyChecksum [app]) ∧
    (∃ t, exec (.bmeta app) s = .next t ∧ s.frameBuilt t s.config.cmdSetMetadata ([app] ++ a ++ b))

/-- R144 and R146: BPROG and BVERIFY frame address, CRC-32C and the payload buffer; with more than 4088 bytes in PB
they report LENGTH and write nothing else. -/
def Obligations.RowBuildersEmit : Prop :=
  (∀ w : Word, w.extractLsb' 0 8 = 0x25#8 → decode w = .ok .bprog) ∧
  (∀ w : Word, w.extractLsb' 0 8 = 0x26#8 → decode w = .ok .bverify) ∧
  ∀ (s : State) (head : List Byte),
    head = [s.arg0.extractLsb' 0 8, s.arg0.extractLsb' 8 8, s.arg0.extractLsb' 16 8, s.arg0.extractLsb' 24 8,
      s.arg1.extractLsb' 0 8, s.arg1.extractLsb' 8 8, s.arg1.extractLsb' 16 8, s.arg1.extractLsb' 24 8] →
    (s.plen.toNat ≤ 4088 →
      (∃ t, exec .bprog s = .next t ∧
        s.frameBuilt t s.config.cmdProgram (head ++ (List.range s.plen.toNat).map s.pb.read)) ∧
      (∃ t, exec .bverify s = .next t ∧
        s.frameBuilt t s.config.cmdVerify (head ++ (List.range s.plen.toNat).map s.pb.read))) ∧
    (4088 < s.plen.toNat →
      exec .bprog s = .next { s with err := 0x0003#16 } ∧ exec .bverify s = .next { s with err := 0x0003#16 })

/-- R154: BEIV frames an IV of 0, 8 or 16 bytes; any other length is LENGTH, with nothing else written. -/
def Obligations.BeivFramesLegalIvs : Prop :=
  (∀ w : Word, w.extractLsb' 0 8 = 0x2A#8 → decode w = .ok .beiv) ∧
  (∀ s : State, s.plen.toNat = 0 ∨ s.plen.toNat = 8 ∨ s.plen.toNat = 16 →
    ∃ t, exec .beiv s = .next t ∧ s.frameBuilt t s.config.cmdSetEiv ((List.range s.plen.toNat).map s.pb.read)) ∧
  (∀ s : State, s.plen.toNat ≠ 0 → s.plen.toNat ≠ 8 → s.plen.toNat ≠ 16 →
    exec .beiv s = .next { s with err := 0x0003#16 })

/-- R156: what holds of every built frame, and that it parses back. With FB = frame(id, p, MODE), PCUSTOM with status
`id` and data length len(p) gives OK and STATUS = id, PTRY gives OK and STATUS = id, and for id = 0 and an empty payload
PDEFAULT gives OK and STATUS = 0, whatever PARSE_CHECKS_CHECKSUM is. -/
def Obligations.BuiltFramesParseBack : Prop :=
  (∀ (id : Byte) (p : List Byte) (mode : ChecksumMode) (f : List Byte), p.length ≤ 4096 → f = frame id p mode →
    f.length = p.length + 7 ∧ f[0]? = some 0x01#8 ∧ f[f.length - 1]? = some 0x17#8 ∧
    le ((f.drop 2).take 2) = p.length ∧
    le ((f.drop (4 + p.length)).take 2) = (checksum16 (f.take (4 + p.length)) mode).toNat) ∧
  (∀ (s : State) (id : Byte) (p : List Byte), p.length ≤ 4096 → s.flen.toNat = p.length + 7 →
    (∀ a < p.length + 7, some (s.fb.read a) = (frame id p s.mode)[a]?) →
    exec (.pcustom id (BitVec.ofNat 16 p.length)) s = .next { s with status := id, err := 0x0000#16 } ∧
    exec .ptry s = .next { s with status := id, err := 0x0000#16 } ∧
    (id = 0x00#8 → p = [] → exec .pdefault s = .next { s with status := 0x00#8, err := 0x0000#16 }))

/-- R156 along a run of commands: whatever PB holds, BUILD id and then PCUSTOM id, PLEN gives OK with STATUS = id, and
so does BUILD id and then PTRY. -/
def Obligations.BuildThenParseRoundTrips : Prop :=
  ∀ (s : State) (id : Byte), s.plen.toNat ≤ 4096 →
    ∃ t, exec (.build id) s = .next t ∧
      exec (.pcustom id (BitVec.ofNat 16 s.plen.toNat)) t = .next { t with status := id, err := 0x0000#16 } ∧
      exec .ptry t = .next { t with status := id, err := 0x0000#16 }

/-! ### Packet parser -/

/-- R161 for every data length and expected status, through PCUSTOM st, d (R168): it reports the first failing step,
LENGTH before BTLDR or RESPONSE before DATA (R164); STATUS is written on success, BTLDR and RESPONSE only (R162). -/
def Obligations.PcustomReportsTheFirstFailure : Prop :=
  (∀ w : Word, w.extractLsb' 0 8 = 0x31#8 → decode w = .ok (.pcustom (w.extractLsb' 8 8) (w.extractLsb' 16 16))) ∧
  ∀ (s : State) (st : Byte) (d : Half), s.flen.toNat ≤ 4103 →
    (s.flen.toNat ≠ d.toNat + 7 → exec (.pcustom st d) s = .next { s with err := 0x0003#16 }) ∧
    (s.flen.toNat = d.toNat + 7 → s.fb.read 1 ≠ st → s.fb.read 1 ≠ 0x00#8 →
      exec (.pcustom st d) s = .next { s with
        status := s.fb.read 1, err := 0x4000#16 ||| (s.fb.read 1).setWidth 16 }) ∧
    (s.flen.toNat = d.toNat + 7 → s.fb.read 1 ≠ st → s.fb.read 1 = 0x00#8 →
      exec (.pcustom st d) s = .next { s with status := 0x00#8, err := 0x0010#16 }) ∧
    (s.flen.toNat = d.toNat + 7 → s.fb.read 1 = st → ¬ s.wellMarked d.toNat →
      exec (.pcustom st d) s = .next { s with err := 0x0004#16 }) ∧
    (s.fb.read 1 = st → s.wellMarked d.toNat → s.config.parseChecksChecksum = true → ¬ s.checksumRight d.toNat →
      exec (.pcustom st d) s = .next { s with err := 0x0004#16 }) ∧
    (s.fb.read 1 = st → s.wellMarked d.toNat →
      (s.config.parseChecksChecksum = true → s.checksumRight d.toNat) →
      exec (.pcustom st d) s = .next { s with status := st, err := 0x0000#16 })

/-- R166 and R168: PDEFAULT accepts an empty-payload response with status 0 and behaves exactly as PCUSTOM 0, 0 on
every frame; RESPONSE cannot occur. -/
def Obligations.PdefaultAcceptsAnEmptyResponse : Prop :=
  (∀ w : Word, w.extractLsb' 0 8 = 0x30#8 → decode w = .ok .pdefault) ∧
  (∀ s : State, s.fb.read 1 = 0x00#8 → s.wellMarked 0 →
    (s.config.parseChecksChecksum = true → s.checksumRight 0) →
    exec .pdefault s = .next { s with status := 0x00#8, err := 0x0000#16 }) ∧
  (∀ s : State, exec .pdefault s = exec (.pcustom 0x00#8 0#16) s) ∧
  (∀ s t : State, exec .pdefault s = .next t → t.err ≠ 0x0010#16)

/-- R171 and R172: PENTER extracts the three fields of a good response (R90); with any other code than OK they keep
their values, and the command ends as PCUSTOM 0, 8 does. -/
def Obligations.PenterExtractsTheFields : Prop :=
  (∀ w : Word, w.extractLsb' 0 8 = 0x32#8 → decode w = .ok .penter) ∧
  (∀ s : State, s.fb.read 1 = 0x00#8 → s.wellMarked 8 →
    (s.config.parseChecksChecksum = true → s.checksumRight 8) →
    exec .penter s = .next { s with
      siid := s.fb.read 7 ++ s.fb.read 6 ++ s.fb.read 5 ++ s.fb.read 4
      sirev := s.fb.read 8
      blver := s.fb.read 11 ++ s.fb.read 10 ++ s.fb.read 9
      status := 0x00#8, err := 0x0000#16 }) ∧
  (∀ s t : State, exec .penter s = .next t → t.err ≠ 0x0000#16 →
    t.siid = s.siid ∧ t.sirev = s.sirev ∧ t.blver = s.blver ∧ exec (.pcustom 0x00#8 8#16) s = .next t)

/-- R174 and R175: PVCHK reports the validity byte of a good response (R91); with any other code than OK CKVALID keeps
its value, and the command ends as PCUSTOM 0, 1 does. -/
def Obligations.PvchkReportsValidity : Prop :=
  (∀ w : Word, w.extractLsb' 0 8 = 0x33#8 → decode w = .ok .pvchk) ∧
  (∀ s : State, s.fb.read 1 = 0x00#8 → s.wellMarked 1 →
    (s.config.parseChecksChecksum = true → s.checksumRight 1) →
    exec .pvchk s = .next { s with
      ckvalid := decide (s.fb.read 4 ≠ 0x00#8), status := 0x00#8, err := 0x0000#16 }) ∧
  (∀ s t : State, exec .pvchk s = .next t → t.err ≠ 0x0000#16 →
    t.ckvalid = s.ckvalid ∧ exec (.pcustom 0x00#8 1#16) s = .next t)

/-- R177: PTRY takes the status of a self-consistent frame at the start of FB, whatever follows it and whatever
PARSE_CHECKS_CHECKSUM holds; for any other content it reports UNKNOWN and writes nothing else. -/
def Obligations.PtryTakesAConsistentStatus : Prop :=
  (∀ w : Word, w.extractLsb' 0 8 = 0x34#8 → decode w = .ok .ptry) ∧
  ∀ (s : State) (d : Nat), s.flen.toNat ≤ 4103 → d = (s.fb.read 2).toNat + 256 * (s.fb.read 3).toNat →
    (7 ≤ s.flen.toNat → d + 7 ≤ s.flen.toNat → s.fb.read 0 = 0x01#8 → s.fb.read (d + 6) = 0x17#8 →
      s.checksumRight d → exec .ptry s = .next { s with status := s.fb.read 1, err := 0x0000#16 }) ∧
    (s.flen.toNat < 7 ∨ s.flen.toNat < d + 7 ∨ s.fb.read 0 ≠ 0x01#8 ∨ s.fb.read (d + 6) ≠ 0x17#8 ∨
      ¬ s.checksumRight d → exec .ptry s = .next { s with err := 0x000F#16 })

/-! ### Resynchronizer -/

/-- R192: a read of no bytes, or one that does not fit, is LENGTH before any transport access; only ERR changes. -/
def Obligations.RreadRefusesWhatDoesNotFit : Prop :=
  (∀ w : Word, w.extractLsb' 0 8 = 0x40#8 → decode w = .ok (.rread (w.extractLsb' 16 16))) ∧
  ∀ (s : State) (size : Half), size = 0#16 ∨ 4103 < s.flen.toNat + size.toNat →
    exec (.rread size) s = .next { s with err := 0x0003#16 }

/-- R193 and R195: mid-packet, or where the first byte is no filler, one read is made and its bytes are stored as read,
filler included. -/
def Obligations.AlignedReadStoresRawBytes : Prop :=
  ∀ (s : State) (size : Half) (w : List Byte) (rest : List TEvent), s.fits size → w.length = size.toNat →
    s.transport.stream = w.map TEvent.byte ++ rest → (s.pkt = true ∨ w.head? ≠ some s.config.filler) →
    ∃ t, exec (.rread size) s = .next t ∧ s.windowRead t w rest [size.toNat]

/-- R195 and R275: with PKT = 0 and `n` leading filler bytes in front of a good byte, the good tail moves to the start
of the window and one more read of `n` bytes refills it; the refill is not scanned. -/
def Obligations.LeadingFillerIsShiftedOut : Prop :=
  ∀ (s : State) (size : Half) (n : Nat) (good refill : List Byte) (rest : List TEvent), s.fits size →
    s.pkt = false → 0 < n → good ≠ [] → good.head? ≠ some s.config.filler → n + good.length = size.toNat →
    refill.length = n →
    s.transport.stream
      = (List.replicate n s.config.filler).map TEvent.byte ++ good.map TEvent.byte ++ refill.map TEvent.byte ++ rest →
    ∃ t, exec (.rread size) s = .next t ∧ s.windowRead t (good ++ refill) rest [size.toNat, n]

/-- R194: with PKT = 0 and a window of filler only, up to ten one-byte reads look for a good byte; it goes to the start
of the window and one read of `size − 1` bytes, made only where `size > 1`, completes it. -/
def Obligations.GarbageIsRetriedByteByByte : Prop :=
  ∀ (s : State) (size : Half) (n : Nat) (good : Byte) (tail : List Byte) (rest : List TEvent), s.fits size →
    s.pkt = false → n < 10 → good ≠ s.config.filler → tail.length = size.toNat - 1 →
    s.transport.stream
      = (List.replicate (size.toNat + n) s.config.filler).map TEvent.byte ++ TEvent.byte good :: tail.map TEvent.byte
        ++ rest →
    ∃ t, exec (.rread size) s = .next t ∧
      s.windowRead t (good :: tail) rest
        ([size.toNat] ++ List.replicate (n + 1) 1 ++ (if size.toNat = 1 then [] else [size.toNat - 1]))

/-- R194 and R198: a window of filler and then ten one-byte reads of filler end in TIMEOUT, after eleven reads; FLEN,
PKT and TERR stay, and so does every byte of FB outside the window. -/
def Obligations.FillerOnlyTimesOut : Prop :=
  ∀ (s : State) (size : Half) (rest : List TEvent), s.fits size → s.pkt = false →
    s.transport.stream = (List.replicate (size.toNat + 10) s.config.filler).map TEvent.byte ++ rest →
    ∃ t, exec (.rread size) s = .next t ∧
      s.readFailed t size.toNat 0x0011#16 s.terr rest ([size.toNat] ++ List.replicate 10 1)

/-- R199: a failure of any transport read of RREAD ends the command at once, with ERR = COMM, TERR the transport's
value unchanged, FLEN, PKT and every byte of FB outside the window as before; and COMM is reported for no other reason.
The clauses after the first take a failure of the raw read, of the refill, of a one-byte retry and of the tail read, with
the reads issued. That of the stream exactly the events up to and with the failure are consumed is the model's choice,
log entry 5. -/
def Obligations.TransportFailureEndsTheRead : Prop :=
  (∀ (s t : State) (size : Half), s.fits size → s.waiting = none → exec (.rread size) s = .next t →
    t.waiting = none →
    (∃ bytes : List Byte, s.transport.stream = bytes.map TEvent.byte ++ t.transport.stream ∧
      (t.err = 0x0000#16 ∨ t.err = 0x0011#16) ∧ t.terr = s.terr) ∨
    (∃ (bytes : List Byte) (e : Word) (issued : List Nat),
      s.transport.stream = bytes.map TEvent.byte ++ TEvent.fail e :: t.transport.stream ∧
      s.readFailed t size.toNat 0x2000#16 e t.transport.stream issued)) ∧
  (∀ (s : State) (size : Half) (bytes : List Byte) (e : Word) (rest : List TEvent), s.fits size →
    bytes.length < size.toNat → s.transport.stream = bytes.map TEvent.byte ++ TEvent.fail e :: rest →
    ∃ t, exec (.rread size) s = .next t ∧ s.readFailed t size.toNat 0x2000#16 e rest [size.toNat]) ∧
  (∀ (s : State) (size : Half) (n : Nat) (good refill : List Byte) (e : Word) (rest : List TEvent), s.fits size →
    s.pkt = false → 0 < n → good ≠ [] → good.head? ≠ some s.config.filler → n + good.length = size.toNat →
    refill.length < n →
    s.transport.stream = (List.replicate n s.config.filler ++ good ++ refill).map TEvent.byte ++ TEvent.fail e :: rest →
    ∃ t, exec (.rread size) s = .next t ∧ s.readFailed t size.toNat 0x2000#16 e rest [size.toNat, n]) ∧
  (∀ (s : State) (size : Half) (n : Nat) (e : Word) (rest : List TEvent), s.fits size → s.pkt = false → n < 10 →
    s.transport.stream
      = (List.replicate (size.toNat + n) s.config.filler).map TEvent.byte ++ TEvent.fail e :: rest →
    ∃ t, exec (.rread size) s = .next t ∧
      s.readFailed t size.toNat 0x2000#16 e rest ([size.toNat] ++ List.replicate (n + 1) 1)) ∧
  (∀ (s : State) (size : Half) (n : Nat) (good : Byte) (tail : List Byte) (e : Word) (rest : List TEvent), s.fits size →
    s.pkt = false → n < 10 → good ≠ s.config.filler → tail.length < size.toNat - 1 →
    s.transport.stream = (List.replicate (size.toNat + n) s.config.filler ++ good :: tail).map TEvent.byte
      ++ TEvent.fail e :: rest →
    ∃ t, exec (.rread size) s = .next t ∧
      s.readFailed t size.toNat 0x2000#16 e rest ([size.toNat] ++ List.replicate (n + 1) 1 ++ [size.toNat - 1]))

/-- R200: the transport reads of one RREAD: at most twelve, of sizes `size`, then up to ten of 1, then `size − 1`; with a
first good byte at offset n > 0, `size` and `n`; and none of no bytes (R66). -/
def Obligations.RreadIssuesAtMostTwelveReads : Prop :=
  ∀ (s t : State) (size : Half), exec (.rread size) s = .next t →
    ∃ issued : List Nat, t.transport.reads = s.transport.reads ++ issued ∧ issued.length ≤ 12 ∧
      (∀ k ∈ issued, 0 < k) ∧
      (issued = [] ∨ issued = [size.toNat] ∨
        (s.pkt = false ∧ ∃ n, 0 < n ∧ n < size.toNat ∧ issued = [size.toNat, n]) ∨
        (s.pkt = false ∧ ∃ n, n ≤ 10 ∧ (issued = [size.toNat] ++ List.replicate n 1 ∨
          issued = [size.toNat] ++ List.replicate n 1 ++ [size.toNat - 1])))

/-- R197 and R25: a successful RREAD sets PKT from the final byte of its window alone, 0 exactly when it is STOP, and
FLEN advances by the size; no other outcome, and no other command, changes PKT. -/
def Obligations.PacketStartedFollowsTheFinalByte : Prop :=
  (∀ (s t : State) (size : Half), s.waiting = none → exec (.rread size) s = .next t → t.waiting = none →
    t.err = 0x0000#16 →
    t.flen.toNat = s.flen.toNat + size.toNat ∧ (t.pkt = false ↔ t.fb.read (t.flen.toNat - 1) = 0x17#8)) ∧
  (∀ (i : Instr) (s t : State), exec i s = .next t → t.pkt ≠ s.pkt →
    ∃ size, i = .rread size ∧ t.err = 0x0000#16)

/-- R201 (and R277): under the stream condition, a transport of `m` filler bytes in front of a frame of `size` bytes,
`RREAD size` with PKT = 0 returns exactly the frame, with PKT = 0, if and only if `m < size + 10`; from there on it is
TIMEOUT. -/
def Obligations.CleanFrameBehindFiller : Prop :=
  ∀ (s : State) (size : Half) (m : Nat) (f : List Byte) (rest : List TEvent), s.fits size → s.pkt = false →
    f.length = size.toNat → f.head? ≠ some s.config.filler → f.getLast? = some 0x17#8 →
    s.transport.stream = (List.replicate m s.config.filler).map TEvent.byte ++ f.map TEvent.byte ++ rest →
    ∃ t, exec (.rread size) s = .next t ∧
      (m < size.toNat + 10 ↔
        t.err = 0x0000#16 ∧ ∀ k < size.toNat, some (t.fb.read (s.flen.toNat + k)) = f[k]?) ∧
      (m < size.toNat + 10 →
        t.pkt = false ∧ t.flen.toNat = s.flen.toNat + size.toNat ∧ t.transport.stream = rest) ∧
      (size.toNat + 10 ≤ m → t.err = 0x0011#16 ∧ t.flen = s.flen)

/-- R249 and 93 U8: where the transport has not answered a read, the block waits inside RREAD: a stuck state, which only
the transport lifts. The clauses take an unanswered raw read, refill, one-byte retry and tail read: the reads before it
have consumed their bytes (20_memory.md R70), and it has been issued (R69). The last says that a step of the waiting
block then changes nothing. That the wait is the field `waiting`, and that an unanswered read has consumed nothing yet,
is the model's form of it (log entry 6). -/
def Obligations.UnansweredReadWaits : Prop :=
  (∀ (s : State) (size : Half) (bytes : List Byte), s.fits size → s.transport.stream = bytes.map TEvent.byte →
    bytes.length < size.toNat →
    exec (.rread size) s = .next { s with
      waiting := some (.raw size.toNat)
      transport := ⟨s.transport.stream, s.transport.reads ++ [size.toNat]⟩ }) ∧
  (∀ (s : State) (size : Half) (n : Nat) (good refill : List Byte), s.fits size →
    s.pkt = false → 0 < n → good ≠ [] → good.head? ≠ some s.config.filler → n + good.length = size.toNat →
    refill.length < n →
    s.transport.stream = (List.replicate n s.config.filler ++ good ++ refill).map TEvent.byte →
    exec (.rread size) s = .next { s with
      waiting := some (.refill good n)
      transport := ⟨refill.map TEvent.byte, s.transport.reads ++ [size.toNat, n]⟩ }) ∧
  (∀ (s : State) (size : Half) (n : Nat), s.fits size → s.pkt = false → n < 10 →
    s.transport.stream = (List.replicate (size.toNat + n) s.config.filler).map TEvent.byte →
    exec (.rread size) s = .next { s with
      waiting := some (.retry size.toNat (9 - n))
      transport := ⟨[], s.transport.reads ++ ([size.toNat] ++ List.replicate (n + 1) 1)⟩ }) ∧
  (∀ (s : State) (size : Half) (n : Nat) (good : Byte) (tail : List Byte), s.fits size → s.pkt = false → n < 10 →
    good ≠ s.config.filler → tail.length < size.toNat - 1 →
    s.transport.stream = (List.replicate (size.toNat + n) s.config.filler ++ good :: tail).map TEvent.byte →
    exec (.rread size) s = .next { s with
      waiting := some (.tail good (size.toNat - 1))
      transport := ⟨tail.map TEvent.byte,
        s.transport.reads ++ ([size.toNat] ++ List.replicate (n + 1) 1 ++ [size.toNat - 1])⟩ }) ∧
  (∀ (s : State) (r : Reading) (bytes : List Byte), s.admitted = true → s.waiting = some r →
    s.flen.toNat + r.size ≤ 4103 → s.transport.stream = bytes.map TEvent.byte → bytes.length < r.count →
    step s = .next s)

/-- R249 and R70: a wait changes nothing of what an RREAD does. If an RREAD waits and the transport then answers further,
the step that goes on ends exactly as the RREAD would have ended had those answers been there from its start: completed,
failed or waiting again. (So by repetition for any number of waits.) The form of the wait is log entry 6. -/
def Obligations.ResumedReadsEndAlike : Prop :=
  ∀ (s t : State) (size : Half) (evs : List TEvent), s.admitted = true → s.waiting = none → s.fits size →
    exec (.rread size) s = .next t → t.waiting ≠ none →
    step (t.deliver evs) = exec (.rread size) (s.deliver evs)
end

