-- ==== Sys2Proof/Laws/Decode.lean ====
section
/-! SUPPORT. The fields of a packed command word, that a word is its three fields, and masking field by field. -/

namespace Sys2Proof

@[simp] theorem fieldOPC_packWord (opc b : Byte) (h : Half) : fieldOPC (packWord opc b h) = opc := by
  unfold fieldOPC packWord
  ext i hi
  have h32 : i < 32 := by omega
  have h16 : i < 16 := by omega
  simp [hi, h32, h16]

@[simp] theorem fieldB_packWord (opc b : Byte) (h : Half) : fieldB (packWord opc b h) = b := by
  unfold fieldB packWord
  ext i hi
  have h32 : 8 + i < 32 := by omega
  have h16 : 8 + i < 16 := by omega
  simp [hi, h32, h16]

@[simp] theorem fieldH_packWord (opc b : Byte) (h : Half) : fieldH (packWord opc b h) = h := by
  unfold fieldH packWord
  ext i hi
  have h32 : 16 + i < 32 := by omega
  simp [hi, h32, BitVec.getLsbD_of_ge b (16 + i - 8) (by omega), BitVec.getLsbD_of_ge opc (16 + i) (by omega)]

/-- A word is its three fields (R81). -/
theorem packWord_fields (w : Word) : packWord (fieldOPC w) (fieldB w) (fieldH w) = w := by
  unfold fieldOPC fieldB fieldH packWord
  ext i hi
  by_cases h8 : i < 8
  · have h16 : i < 16 := by omega
    simp [h8, h16, BitVec.getLsbD_eq_getElem hi]
  · by_cases h16 : i < 16
    · have e : 8 + (i - 8) = i := by omega
      have l : i - 8 < 8 := by omega
      simp [h8, h16, e, l, BitVec.getLsbD_eq_getElem hi]
    · have e : 16 + (i - 16) = i := by omega
      have l : i - 16 < 16 := by omega
      have l' : ¬ i - 8 < 8 := by omega
      simp [h8, h16, e, l, l', BitVec.getLsbD_eq_getElem hi]

theorem packWord_inj {a a' b b' : Byte} {c c' : Half} :
    packWord a b c = packWord a' b' c' ↔ a = a' ∧ b = b' ∧ c = c' := by
  refine ⟨fun e => ⟨?_, ?_, ?_⟩, fun ⟨ha, hb, hc⟩ => by rw [ha, hb, hc]⟩
  · simpa using congrArg fieldOPC e
  · simpa using congrArg fieldB e
  · simpa using congrArg fieldH e

theorem fieldOPC_and (v w : Word) : fieldOPC (v &&& w) = fieldOPC v &&& fieldOPC w := by
  unfold fieldOPC
  ext i hi
  simp

theorem fieldB_and (v w : Word) : fieldB (v &&& w) = fieldB v &&& fieldB w := by
  unfold fieldB
  ext i hi
  simp

theorem fieldH_and (v w : Word) : fieldH (v &&& w) = fieldH v &&& fieldH w := by
  unfold fieldH
  ext i hi
  simp

/-- Masking a word masks its fields. -/
theorem and_packWord (w : Word) (a b : Byte) (c : Half) :
    w &&& packWord a b c = packWord (fieldOPC w &&& a) (fieldB w &&& b) (fieldH w &&& c) := by
  rw [← packWord_fields (w &&& packWord a b c), fieldOPC_and, fieldB_and, fieldH_and]
  simp

@[simp] theorem ChecksumMode.ofBit_toBit (m : ChecksumMode) : ChecksumMode.ofBit m.toBit = m := by cases m <;> rfl

@[simp] theorem ChecksumMode.toBit_ofBit (b : Bool) : (ChecksumMode.ofBit b).toBit = b := by cases b <;> rfl

@[simp] theorem Src.ofBit_toBit (s : Src) : Src.ofBit s.toBit = s := by cases s <;> rfl

@[simp] theorem Src.toBit_ofBit (b : Bool) : (Src.ofBit b).toBit = b := by cases b <;> rfl

/-- `B[0]` of a one-bit field. -/
@[simp] theorem getLsbD_zero_bit (b : Bool) : ((BitVec.ofBool b).setWidth 8).getLsbD 0 = b := by cases b <;> rfl

/-- A byte masked to its lowest bit. -/
theorem and_one_byte (b : Byte) : b &&& 0x01#8 = (BitVec.ofBool (b.getLsbD 0)).setWidth 8 := by
  revert b
  decide

end Sys2Proof
end

