-- ==== Sys2Proof/Laws/Memory.lean ====
section
/-! SUPPORT. The laws of a buffer's bytes: reading after writing, what a write leaves alone, and that every write keeps
the canonical form, in which equal contents are equal data. -/

namespace Sys2Proof.Machine

namespace Memory

theorem read_cons (c : Host.Cell) (m : Memory) (x : Nat) :
    read (c :: m) x = if c.1 = x then c.2 else read m x := rfl

theorem read_of_unlisted {m : Memory} {x : Nat} (h : ∀ c ∈ m, c.1 ≠ x) : m.read x = unlisted := by
  induction m with
  | nil => rfl
  | cons c m ih =>
    rw [read_cons, if_neg (h c (by simp))]
    exact ih fun d hd => h d (List.mem_cons_of_mem _ hd)

theorem read_append_skip {m n : Memory} {x : Nat} (h : ∀ c ∈ m, c.1 ≠ x) : read (m ++ n) x = n.read x := by
  induction m with
  | nil => rfl
  | cons c m ih =>
    rw [List.cons_append, read_cons, if_neg (h c (by simp))]
    exact ih fun d hd => h d (List.mem_cons_of_mem _ hd)

theorem read_append_keep {m n : Memory} {x : Nat} (h : ∀ c ∈ n, c.1 ≠ x) : read (m ++ n) x = m.read x := by
  induction m with
  | nil => exact read_of_unlisted h
  | cons c m ih => simp only [List.cons_append, read_cons, ih]

theorem read_filter_keep {m : Memory} {p : Host.Cell → Bool} {x : Nat} (h : ∀ c : Host.Cell, c.1 = x → p c = true) :
    read (m.filter p) x = m.read x := by
  induction m with
  | nil => rfl
  | cons c m ih =>
    by_cases hc : p c = true
    · rw [List.filter_cons_of_pos hc, read_cons, read_cons, ih]
    · rw [List.filter_cons_of_neg hc, read_cons, if_neg fun e => hc (h c e), ih]

theorem mem_cells {a : Nat} {bytes : List Byte} {c : Host.Cell} (h : c ∈ cells a bytes) :
    a ≤ c.1 ∧ c.1 < a + bytes.length ∧ c.2 ≠ unlisted := by
  induction bytes generalizing a with
  | nil => simp [cells] at h
  | cons b bs ih =>
    simp only [cells] at h
    split at h
    · obtain ⟨h1, h2, h3⟩ := ih h
      exact ⟨by omega, by simp only [List.length_cons]; omega, h3⟩
    · rcases List.mem_cons.1 h with rfl | h
      · simp_all
      · obtain ⟨h1, h2, h3⟩ := ih h
        exact ⟨by omega, by simp only [List.length_cons]; omega, h3⟩

theorem read_cells (a : Nat) (bytes : List Byte) (k : Nat) :
    (cells a bytes).read (a + k) = (bytes[k]?).getD unlisted := by
  induction bytes generalizing a k with
  | nil => rfl
  | cons b bs ih =>
    simp only [cells]
    cases k with
    | zero =>
      split
      · rename_i hb
        rw [read_of_unlisted fun c hc => by have := (mem_cells hc).1; omega]
        simp [hb]
      · simp [read_cons]
    | succ k =>
      have step : a + (k + 1) = a + 1 + k := by omega
      split
      · simpa [step] using ih (a + 1) k
      · rw [read_cons, if_neg (by simp only; omega), step]
        simpa using ih (a + 1) k

/-- Reading after a write: the bytes written at the window, every other byte as before. -/
theorem read_writeBytes (m : Memory) (a : Nat) (bytes : List Byte) (x : Nat) :
    (m.writeBytes a bytes).read x = if x < a then m.read x else (bytes[x - a]?).getD (m.read x) := by
  unfold writeBytes
  by_cases hx : x < a
  · rw [if_pos hx, List.append_assoc, read_append_keep, read_filter_keep]
    · intro c hc
      simp [hc, hx]
    · intro c hc
      rcases List.mem_append.1 hc with hc | hc
      · have := (mem_cells hc).1
        omega
      · have := of_decide_eq_true (List.mem_filter.1 hc).2
        omega
  · rw [if_neg hx, List.append_assoc, read_append_skip]
    · by_cases hk : x < a + bytes.length
      · rw [read_append_keep]
        · obtain ⟨k, rfl⟩ : ∃ k, x = a + k := ⟨x - a, by omega⟩
          rw [read_cells, Nat.add_sub_cancel_left]
          rw [List.getElem?_eq_getElem (by omega)]
          rfl
        · intro c hc
          have := of_decide_eq_true (List.mem_filter.1 hc).2
          omega
      · rw [read_append_skip, read_filter_keep, List.getElem?_eq_none (by omega)]
        · rfl
        · intro c hc
          simp only [hc, decide_eq_true_eq]
          omega
        · intro c hc
          have := (mem_cells hc).2.1
          omega
    · intro c hc
      have := of_decide_eq_true (List.mem_filter.1 hc).2
      omega

theorem read_write (m : Memory) (a : Nat) (b : Byte) (x : Nat) :
    (m.write a b).read x = if x = a then b else m.read x := by
  rw [write, read_writeBytes]
  by_cases h : x < a
  · simp [h, Nat.ne_of_lt h]
  · rw [if_neg h]
    by_cases h' : x = a
    · simp [h']
    · rw [if_neg h', List.getElem?_eq_none (by simp only [List.length_singleton]; omega)]
      rfl

theorem pairwise_cells (a : Nat) (bytes : List Byte) : (cells a bytes).Pairwise (fun c d => c.1 < d.1) := by
  induction bytes generalizing a with
  | nil => exact List.Pairwise.nil
  | cons b bs ih =>
    simp only [cells]
    split
    · exact ih (a + 1)
    · refine List.Pairwise.cons (fun c hc => ?_) (ih (a + 1))
      have := (mem_cells hc).1
      simp only
      omega

/-- A write inside the buffer keeps the canonical form. -/
theorem wf_writeBytes {size : Nat} {m : Memory} (h : m.wf size) {a : Nat} {bytes : List Byte}
    (fit : a + bytes.length ≤ size) : (m.writeBytes a bytes).wf size := by
  obtain ⟨rising, legal⟩ := h
  constructor
  · unfold writeBytes
    rw [List.append_assoc, List.pairwise_append, List.pairwise_append]
    refine ⟨rising.filter _, ⟨pairwise_cells a bytes, rising.filter _, ?_⟩, ?_⟩
    · intro c hc d hd
      have h1 := (mem_cells hc).2.1
      have h2 := of_decide_eq_true (List.mem_filter.1 hd).2
      omega
    · intro c hc d hd
      have h1 := of_decide_eq_true (List.mem_filter.1 hc).2
      rcases List.mem_append.1 hd with hd | hd
      · have := (mem_cells hd).1
        omega
      · have := of_decide_eq_true (List.mem_filter.1 hd).2
        omega
  · intro c hc
    unfold writeBytes at hc
    rcases List.mem_append.1 hc with hc | hc
    · rcases List.mem_append.1 hc with hc | hc
      · exact legal c (List.mem_filter.1 hc).1
      · obtain ⟨-, h2, h3⟩ := mem_cells hc
        exact ⟨by omega, h3⟩
    · exact legal c (List.mem_filter.1 hc).1

theorem wf_write {size : Nat} {m : Memory} (h : m.wf size) {a : Nat} (b : Byte) (fit : a < size) :
    (m.write a b).wf size := wf_writeBytes h (by simpa using fit)

theorem wf_nil (size : Nat) : wf size [] := ⟨List.Pairwise.nil, by simp⟩

theorem read_of_mem {m : Memory} (rising : m.Pairwise (fun c d => c.1 < d.1)) {c : Host.Cell} (hc : c ∈ m) :
    m.read c.1 = c.2 := by
  induction m with
  | nil => simp at hc
  | cons d m ih =>
    obtain ⟨hd, hm⟩ := List.pairwise_cons.1 rising
    rcases List.mem_cons.1 hc with rfl | hc
    · simp [read_cons]
    · rw [read_cons, if_neg (Nat.ne_of_lt (hd c hc)), ih hm hc]

/-- In canonical form, equal contents are equal data. -/
theorem ext_of_wf {size : Nat} {m n : Memory} (hm : m.wf size) (hn : n.wf size) (same : ∀ x, m.read x = n.read x) :
    m = n := by
  have sub : ∀ {m n : Memory}, m.wf size → n.wf size → (∀ x, m.read x = n.read x) → ∀ c ∈ m, c ∈ n := by
    intro m n hm hn same c hc
    by_contra hcn
    have h1 := read_of_mem hm.1 hc
    rw [same] at h1
    by_cases hex : ∃ d ∈ n, d.1 = c.1
    · obtain ⟨d, hd, e⟩ := hex
      rw [← e, read_of_mem hn.1 hd] at h1
      exact hcn ((Prod.ext e h1 : d = c) ▸ hd)
    · rw [read_of_unlisted fun d hd e => hex ⟨d, hd, e⟩] at h1
      exact (hm.2 c hc).2 h1.symm
  refine List.Perm.eq_of_pairwise (le := fun c d : Host.Cell => c.1 < d.1)
    (fun a b _ _ h1 h2 => absurd h1 (Nat.lt_asymm h2)) hm.1 hn.1 ?_
  refine (List.perm_ext_iff_of_nodup ?_ ?_).2 fun c => ⟨sub hm hn same c, sub hn hm (fun x => (same x).symm) c⟩
  · exact hm.1.imp fun h e => by simp [e] at h
  · exact hn.1.imp fun h e => by simp [e] at h

/-- Writing the same bytes again changes nothing. -/
theorem writeBytes_idem (m : Memory) (a : Nat) (bytes : List Byte) :
    (m.writeBytes a bytes).writeBytes a bytes = m.writeBytes a bytes := by
  have low : ∀ c ∈ cells a bytes, ¬ (decide (c.1 < a) = true) := fun c hc => by
    have := (mem_cells hc).1
    simp only [decide_eq_true_eq]
    omega
  have high : ∀ c ∈ cells a bytes, ¬ (decide (a + bytes.length ≤ c.1) = true) := fun c hc => by
    have := (mem_cells hc).2.1
    simp only [decide_eq_true_eq]
    omega
  have noLow : (m.filter fun c => decide (c.1 < a) && decide (a + bytes.length ≤ c.1)) = [] :=
    List.filter_eq_nil_iff.2 fun c _ => by simp only [Bool.and_eq_true, decide_eq_true_eq]; omega
  have noHigh : (m.filter fun c => decide (a + bytes.length ≤ c.1) && decide (c.1 < a)) = [] :=
    List.filter_eq_nil_iff.2 fun c _ => by simp only [Bool.and_eq_true, decide_eq_true_eq]; omega
  unfold writeBytes
  simp only [List.filter_append, List.filter_filter, List.filter_eq_nil_iff.2 low, List.filter_eq_nil_iff.2 high,
    noLow, noHigh, Bool.and_self, List.append_nil, List.nil_append]

@[simp] theorem length_readBytes (m : Memory) (a n : Nat) : (m.readBytes a n).length = n := by simp [readBytes]

theorem getElem?_readBytes (m : Memory) (a n k : Nat) :
    (m.readBytes a n)[k]? = if k < n then some (m.read (a + k)) else none := by
  unfold readBytes
  by_cases h : k < n
  · simp [h]
  · simp [h]

theorem readBytes_congr {m n : Memory} {a k : Nat} (h : ∀ j < k, m.read (a + j) = n.read (a + j)) :
    m.readBytes a k = n.readBytes a k := by
  unfold readBytes
  exact List.map_congr_left fun j hj => h j (List.mem_range.1 hj)

theorem readBytes_zero (m : Memory) (n : Nat) : m.readBytes 0 n = (List.range n).map m.read := by
  simp [readBytes]

theorem readBytes_eq_of_reads {m : Memory} {a : Nat} {bytes : List Byte}
    (h : ∀ k < bytes.length, some (m.read (a + k)) = bytes[k]?) : m.readBytes a bytes.length = bytes := by
  apply List.ext_getElem?
  intro k
  rw [getElem?_readBytes]
  split
  · rename_i hk
    exact h k hk
  · rename_i hk
    rw [List.getElem?_eq_none (by omega)]

end Memory

end Sys2Proof.Machine
end

