-- ==== Sys2Proof/Laws/State.lean ====
section
/-! SUPPORT. What every named update of the state does to every field: one lemma per field per update, by rfl. -/

namespace Sys2Proof.Machine

variable (s : State)

/-! ### State.setCmd -/

@[simp] theorem State.setCmd_cmd (w : Word) : (s.setCmd w).cmd = w := rfl
@[simp] theorem State.setCmd_arg0 (w : Word) : (s.setCmd w).arg0 = s.arg0 := rfl
@[simp] theorem State.setCmd_arg1 (w : Word) : (s.setCmd w).arg1 = s.arg1 := rfl
@[simp] theorem State.setCmd_err (w : Word) : (s.setCmd w).err = s.err := rfl
@[simp] theorem State.setCmd_status (w : Word) : (s.setCmd w).status = s.status := rfl
@[simp] theorem State.setCmd_mode (w : Word) : (s.setCmd w).mode = s.mode := rfl
@[simp] theorem State.setCmd_pkt (w : Word) : (s.setCmd w).pkt = s.pkt := rfl
@[simp] theorem State.setCmd_plen (w : Word) : (s.setCmd w).plen = s.plen := rfl
@[simp] theorem State.setCmd_flen (w : Word) : (s.setCmd w).flen = s.flen := rfl
@[simp] theorem State.setCmd_chk16 (w : Word) : (s.setCmd w).chk16 = s.chk16 := rfl
@[simp] theorem State.setCmd_crc32 (w : Word) : (s.setCmd w).crc32 = s.crc32 := rfl
@[simp] theorem State.setCmd_siid (w : Word) : (s.setCmd w).siid = s.siid := rfl
@[simp] theorem State.setCmd_sirev (w : Word) : (s.setCmd w).sirev = s.sirev := rfl
@[simp] theorem State.setCmd_blver (w : Word) : (s.setCmd w).blver = s.blver := rfl
@[simp] theorem State.setCmd_ckvalid (w : Word) : (s.setCmd w).ckvalid = s.ckvalid := rfl
@[simp] theorem State.setCmd_rdata (w : Word) : (s.setCmd w).rdata = s.rdata := rfl
@[simp] theorem State.setCmd_terr (w : Word) : (s.setCmd w).terr = s.terr := rfl
@[simp] theorem State.setCmd_pb (w : Word) : (s.setCmd w).pb = s.pb := rfl
@[simp] theorem State.setCmd_fb (w : Word) : (s.setCmd w).fb = s.fb := rfl
@[simp] theorem State.setCmd_host (w : Word) : (s.setCmd w).host = s.host := rfl
@[simp] theorem State.setCmd_extraHosts (w : Word) : (s.setCmd w).extraHosts = s.extraHosts := rfl
@[simp] theorem State.setCmd_transport (w : Word) : (s.setCmd w).transport = s.transport := rfl
@[simp] theorem State.setCmd_waiting (w : Word) : (s.setCmd w).waiting = s.waiting := rfl
@[simp] theorem State.setCmd_freeCount (w : Word) : (s.setCmd w).freeCount = s.freeCount := rfl
@[simp] theorem State.setCmd_config (w : Word) : (s.setCmd w).config = s.config := rfl

/-! ### State.setErr -/

@[simp] theorem State.setErr_cmd (c : ResultCode) : (s.setErr c).cmd = s.cmd := rfl
@[simp] theorem State.setErr_arg0 (c : ResultCode) : (s.setErr c).arg0 = s.arg0 := rfl
@[simp] theorem State.setErr_arg1 (c : ResultCode) : (s.setErr c).arg1 = s.arg1 := rfl
@[simp] theorem State.setErr_err (c : ResultCode) : (s.setErr c).err = c.bits := rfl
@[simp] theorem State.setErr_status (c : ResultCode) : (s.setErr c).status = s.status := rfl
@[simp] theorem State.setErr_mode (c : ResultCode) : (s.setErr c).mode = s.mode := rfl
@[simp] theorem State.setErr_pkt (c : ResultCode) : (s.setErr c).pkt = s.pkt := rfl
@[simp] theorem State.setErr_plen (c : ResultCode) : (s.setErr c).plen = s.plen := rfl
@[simp] theorem State.setErr_flen (c : ResultCode) : (s.setErr c).flen = s.flen := rfl
@[simp] theorem State.setErr_chk16 (c : ResultCode) : (s.setErr c).chk16 = s.chk16 := rfl
@[simp] theorem State.setErr_crc32 (c : ResultCode) : (s.setErr c).crc32 = s.crc32 := rfl
@[simp] theorem State.setErr_siid (c : ResultCode) : (s.setErr c).siid = s.siid := rfl
@[simp] theorem State.setErr_sirev (c : ResultCode) : (s.setErr c).sirev = s.sirev := rfl
@[simp] theorem State.setErr_blver (c : ResultCode) : (s.setErr c).blver = s.blver := rfl
@[simp] theorem State.setErr_ckvalid (c : ResultCode) : (s.setErr c).ckvalid = s.ckvalid := rfl
@[simp] theorem State.setErr_rdata (c : ResultCode) : (s.setErr c).rdata = s.rdata := rfl
@[simp] theorem State.setErr_terr (c : ResultCode) : (s.setErr c).terr = s.terr := rfl
@[simp] theorem State.setErr_pb (c : ResultCode) : (s.setErr c).pb = s.pb := rfl
@[simp] theorem State.setErr_fb (c : ResultCode) : (s.setErr c).fb = s.fb := rfl
@[simp] theorem State.setErr_host (c : ResultCode) : (s.setErr c).host = s.host := rfl
@[simp] theorem State.setErr_extraHosts (c : ResultCode) : (s.setErr c).extraHosts = s.extraHosts := rfl
@[simp] theorem State.setErr_transport (c : ResultCode) : (s.setErr c).transport = s.transport := rfl
@[simp] theorem State.setErr_waiting (c : ResultCode) : (s.setErr c).waiting = s.waiting := rfl
@[simp] theorem State.setErr_freeCount (c : ResultCode) : (s.setErr c).freeCount = s.freeCount := rfl
@[simp] theorem State.setErr_config (c : ResultCode) : (s.setErr c).config = s.config := rfl

/-! ### State.setStatus -/

@[simp] theorem State.setStatus_cmd (b : Byte) : (s.setStatus b).cmd = s.cmd := rfl
@[simp] theorem State.setStatus_arg0 (b : Byte) : (s.setStatus b).arg0 = s.arg0 := rfl
@[simp] theorem State.setStatus_arg1 (b : Byte) : (s.setStatus b).arg1 = s.arg1 := rfl
@[simp] theorem State.setStatus_err (b : Byte) : (s.setStatus b).err = s.err := rfl
@[simp] theorem State.setStatus_status (b : Byte) : (s.setStatus b).status = b := rfl
@[simp] theorem State.setStatus_mode (b : Byte) : (s.setStatus b).mode = s.mode := rfl
@[simp] theorem State.setStatus_pkt (b : Byte) : (s.setStatus b).pkt = s.pkt := rfl
@[simp] theorem State.setStatus_plen (b : Byte) : (s.setStatus b).plen = s.plen := rfl
@[simp] theorem State.setStatus_flen (b : Byte) : (s.setStatus b).flen = s.flen := rfl
@[simp] theorem State.setStatus_chk16 (b : Byte) : (s.setStatus b).chk16 = s.chk16 := rfl
@[simp] theorem State.setStatus_crc32 (b : Byte) : (s.setStatus b).crc32 = s.crc32 := rfl
@[simp] theorem State.setStatus_siid (b : Byte) : (s.setStatus b).siid = s.siid := rfl
@[simp] theorem State.setStatus_sirev (b : Byte) : (s.setStatus b).sirev = s.sirev := rfl
@[simp] theorem State.setStatus_blver (b : Byte) : (s.setStatus b).blver = s.blver := rfl
@[simp] theorem State.setStatus_ckvalid (b : Byte) : (s.setStatus b).ckvalid = s.ckvalid := rfl
@[simp] theorem State.setStatus_rdata (b : Byte) : (s.setStatus b).rdata = s.rdata := rfl
@[simp] theorem State.setStatus_terr (b : Byte) : (s.setStatus b).terr = s.terr := rfl
@[simp] theorem State.setStatus_pb (b : Byte) : (s.setStatus b).pb = s.pb := rfl
@[simp] theorem State.setStatus_fb (b : Byte) : (s.setStatus b).fb = s.fb := rfl
@[simp] theorem State.setStatus_host (b : Byte) : (s.setStatus b).host = s.host := rfl
@[simp] theorem State.setStatus_extraHosts (b : Byte) : (s.setStatus b).extraHosts = s.extraHosts := rfl
@[simp] theorem State.setStatus_transport (b : Byte) : (s.setStatus b).transport = s.transport := rfl
@[simp] theorem State.setStatus_waiting (b : Byte) : (s.setStatus b).waiting = s.waiting := rfl
@[simp] theorem State.setStatus_freeCount (b : Byte) : (s.setStatus b).freeCount = s.freeCount := rfl
@[simp] theorem State.setStatus_config (b : Byte) : (s.setStatus b).config = s.config := rfl

/-! ### State.setPayload -/

@[simp] theorem State.setPayload_cmd (m : Memory) (n : Nat) : (s.setPayload m n).cmd = s.cmd := rfl
@[simp] theorem State.setPayload_arg0 (m : Memory) (n : Nat) : (s.setPayload m n).arg0 = s.arg0 := rfl
@[simp] theorem State.setPayload_arg1 (m : Memory) (n : Nat) : (s.setPayload m n).arg1 = s.arg1 := rfl
@[simp] theorem State.setPayload_err (m : Memory) (n : Nat) : (s.setPayload m n).err = s.err := rfl
@[simp] theorem State.setPayload_status (m : Memory) (n : Nat) : (s.setPayload m n).status = s.status := rfl
@[simp] theorem State.setPayload_mode (m : Memory) (n : Nat) : (s.setPayload m n).mode = s.mode := rfl
@[simp] theorem State.setPayload_pkt (m : Memory) (n : Nat) : (s.setPayload m n).pkt = s.pkt := rfl
@[simp] theorem State.setPayload_plen (m : Memory) (n : Nat) : (s.setPayload m n).plen = BitVec.ofNat 13 n := rfl
@[simp] theorem State.setPayload_flen (m : Memory) (n : Nat) : (s.setPayload m n).flen = s.flen := rfl
@[simp] theorem State.setPayload_chk16 (m : Memory) (n : Nat) : (s.setPayload m n).chk16 = s.chk16 := rfl
@[simp] theorem State.setPayload_crc32 (m : Memory) (n : Nat) : (s.setPayload m n).crc32 = s.crc32 := rfl
@[simp] theorem State.setPayload_siid (m : Memory) (n : Nat) : (s.setPayload m n).siid = s.siid := rfl
@[simp] theorem State.setPayload_sirev (m : Memory) (n : Nat) : (s.setPayload m n).sirev = s.sirev := rfl
@[simp] theorem State.setPayload_blver (m : Memory) (n : Nat) : (s.setPayload m n).blver = s.blver := rfl
@[simp] theorem State.setPayload_ckvalid (m : Memory) (n : Nat) : (s.setPayload m n).ckvalid = s.ckvalid := rfl
@[simp] theorem State.setPayload_rdata (m : Memory) (n : Nat) : (s.setPayload m n).rdata = s.rdata := rfl
@[simp] theorem State.setPayload_terr (m : Memory) (n : Nat) : (s.setPayload m n).terr = s.terr := rfl
@[simp] theorem State.setPayload_pb (m : Memory) (n : Nat) : (s.setPayload m n).pb = m := rfl
@[simp] theorem State.setPayload_fb (m : Memory) (n : Nat) : (s.setPayload m n).fb = s.fb := rfl
@[simp] theorem State.setPayload_host (m : Memory) (n : Nat) : (s.setPayload m n).host = s.host := rfl
@[simp] theorem State.setPayload_extraHosts (m : Memory) (n : Nat) : (s.setPayload m n).extraHosts = s.extraHosts := rfl
@[simp] theorem State.setPayload_transport (m : Memory) (n : Nat) : (s.setPayload m n).transport = s.transport := rfl
@[simp] theorem State.setPayload_waiting (m : Memory) (n : Nat) : (s.setPayload m n).waiting = s.waiting := rfl
@[simp] theorem State.setPayload_freeCount (m : Memory) (n : Nat) : (s.setPayload m n).freeCount = s.freeCount := rfl
@[simp] theorem State.setPayload_config (m : Memory) (n : Nat) : (s.setPayload m n).config = s.config := rfl

/-! ### State.setFrame -/

@[simp] theorem State.setFrame_cmd (m : Memory) (n : Nat) : (s.setFrame m n).cmd = s.cmd := rfl
@[simp] theorem State.setFrame_arg0 (m : Memory) (n : Nat) : (s.setFrame m n).arg0 = s.arg0 := rfl
@[simp] theorem State.setFrame_arg1 (m : Memory) (n : Nat) : (s.setFrame m n).arg1 = s.arg1 := rfl
@[simp] theorem State.setFrame_err (m : Memory) (n : Nat) : (s.setFrame m n).err = s.err := rfl
@[simp] theorem State.setFrame_status (m : Memory) (n : Nat) : (s.setFrame m n).status = s.status := rfl
@[simp] theorem State.setFrame_mode (m : Memory) (n : Nat) : (s.setFrame m n).mode = s.mode := rfl
@[simp] theorem State.setFrame_pkt (m : Memory) (n : Nat) : (s.setFrame m n).pkt = s.pkt := rfl
@[simp] theorem State.setFrame_plen (m : Memory) (n : Nat) : (s.setFrame m n).plen = s.plen := rfl
@[simp] theorem State.setFrame_flen (m : Memory) (n : Nat) : (s.setFrame m n).flen = BitVec.ofNat 13 n := rfl
@[simp] theorem State.setFrame_chk16 (m : Memory) (n : Nat) : (s.setFrame m n).chk16 = s.chk16 := rfl
@[simp] theorem State.setFrame_crc32 (m : Memory) (n : Nat) : (s.setFrame m n).crc32 = s.crc32 := rfl
@[simp] theorem State.setFrame_siid (m : Memory) (n : Nat) : (s.setFrame m n).siid = s.siid := rfl
@[simp] theorem State.setFrame_sirev (m : Memory) (n : Nat) : (s.setFrame m n).sirev = s.sirev := rfl
@[simp] theorem State.setFrame_blver (m : Memory) (n : Nat) : (s.setFrame m n).blver = s.blver := rfl
@[simp] theorem State.setFrame_ckvalid (m : Memory) (n : Nat) : (s.setFrame m n).ckvalid = s.ckvalid := rfl
@[simp] theorem State.setFrame_rdata (m : Memory) (n : Nat) : (s.setFrame m n).rdata = s.rdata := rfl
@[simp] theorem State.setFrame_terr (m : Memory) (n : Nat) : (s.setFrame m n).terr = s.terr := rfl
@[simp] theorem State.setFrame_pb (m : Memory) (n : Nat) : (s.setFrame m n).pb = s.pb := rfl
@[simp] theorem State.setFrame_fb (m : Memory) (n : Nat) : (s.setFrame m n).fb = m := rfl
@[simp] theorem State.setFrame_host (m : Memory) (n : Nat) : (s.setFrame m n).host = s.host := rfl
@[simp] theorem State.setFrame_extraHosts (m : Memory) (n : Nat) : (s.setFrame m n).extraHosts = s.extraHosts := rfl
@[simp] theorem State.setFrame_transport (m : Memory) (n : Nat) : (s.setFrame m n).transport = s.transport := rfl
@[simp] theorem State.setFrame_waiting (m : Memory) (n : Nat) : (s.setFrame m n).waiting = s.waiting := rfl
@[simp] theorem State.setFrame_freeCount (m : Memory) (n : Nat) : (s.setFrame m n).freeCount = s.freeCount := rfl
@[simp] theorem State.setFrame_config (m : Memory) (n : Nat) : (s.setFrame m n).config = s.config := rfl

/-! ### State.setTransport -/

@[simp] theorem State.setTransport_cmd (t : Transport) : (s.setTransport t).cmd = s.cmd := rfl
@[simp] theorem State.setTransport_arg0 (t : Transport) : (s.setTransport t).arg0 = s.arg0 := rfl
@[simp] theorem State.setTransport_arg1 (t : Transport) : (s.setTransport t).arg1 = s.arg1 := rfl
@[simp] theorem State.setTransport_err (t : Transport) : (s.setTransport t).err = s.err := rfl
@[simp] theorem State.setTransport_status (t : Transport) : (s.setTransport t).status = s.status := rfl
@[simp] theorem State.setTransport_mode (t : Transport) : (s.setTransport t).mode = s.mode := rfl
@[simp] theorem State.setTransport_pkt (t : Transport) : (s.setTransport t).pkt = s.pkt := rfl
@[simp] theorem State.setTransport_plen (t : Transport) : (s.setTransport t).plen = s.plen := rfl
@[simp] theorem State.setTransport_flen (t : Transport) : (s.setTransport t).flen = s.flen := rfl
@[simp] theorem State.setTransport_chk16 (t : Transport) : (s.setTransport t).chk16 = s.chk16 := rfl
@[simp] theorem State.setTransport_crc32 (t : Transport) : (s.setTransport t).crc32 = s.crc32 := rfl
@[simp] theorem State.setTransport_siid (t : Transport) : (s.setTransport t).siid = s.siid := rfl
@[simp] theorem State.setTransport_sirev (t : Transport) : (s.setTransport t).sirev = s.sirev := rfl
@[simp] theorem State.setTransport_blver (t : Transport) : (s.setTransport t).blver = s.blver := rfl
@[simp] theorem State.setTransport_ckvalid (t : Transport) : (s.setTransport t).ckvalid = s.ckvalid := rfl
@[simp] theorem State.setTransport_rdata (t : Transport) : (s.setTransport t).rdata = s.rdata := rfl
@[simp] theorem State.setTransport_terr (t : Transport) : (s.setTransport t).terr = s.terr := rfl
@[simp] theorem State.setTransport_pb (t : Transport) : (s.setTransport t).pb = s.pb := rfl
@[simp] theorem State.setTransport_fb (t : Transport) : (s.setTransport t).fb = s.fb := rfl
@[simp] theorem State.setTransport_host (t : Transport) : (s.setTransport t).host = s.host := rfl
@[simp] theorem State.setTransport_extraHosts (t : Transport) : (s.setTransport t).extraHosts = s.extraHosts := rfl
@[simp] theorem State.setTransport_transport (t : Transport) : (s.setTransport t).transport = t := rfl
@[simp] theorem State.setTransport_waiting (t : Transport) : (s.setTransport t).waiting = s.waiting := rfl
@[simp] theorem State.setTransport_freeCount (t : Transport) : (s.setTransport t).freeCount = s.freeCount := rfl
@[simp] theorem State.setTransport_config (t : Transport) : (s.setTransport t).config = s.config := rfl

/-! ### State.setWaiting -/

@[simp] theorem State.setWaiting_cmd (r : Option Reading) : (s.setWaiting r).cmd = s.cmd := rfl
@[simp] theorem State.setWaiting_arg0 (r : Option Reading) : (s.setWaiting r).arg0 = s.arg0 := rfl
@[simp] theorem State.setWaiting_arg1 (r : Option Reading) : (s.setWaiting r).arg1 = s.arg1 := rfl
@[simp] theorem State.setWaiting_err (r : Option Reading) : (s.setWaiting r).err = s.err := rfl
@[simp] theorem State.setWaiting_status (r : Option Reading) : (s.setWaiting r).status = s.status := rfl
@[simp] theorem State.setWaiting_mode (r : Option Reading) : (s.setWaiting r).mode = s.mode := rfl
@[simp] theorem State.setWaiting_pkt (r : Option Reading) : (s.setWaiting r).pkt = s.pkt := rfl
@[simp] theorem State.setWaiting_plen (r : Option Reading) : (s.setWaiting r).plen = s.plen := rfl
@[simp] theorem State.setWaiting_flen (r : Option Reading) : (s.setWaiting r).flen = s.flen := rfl
@[simp] theorem State.setWaiting_chk16 (r : Option Reading) : (s.setWaiting r).chk16 = s.chk16 := rfl
@[simp] theorem State.setWaiting_crc32 (r : Option Reading) : (s.setWaiting r).crc32 = s.crc32 := rfl
@[simp] theorem State.setWaiting_siid (r : Option Reading) : (s.setWaiting r).siid = s.siid := rfl
@[simp] theorem State.setWaiting_sirev (r : Option Reading) : (s.setWaiting r).sirev = s.sirev := rfl
@[simp] theorem State.setWaiting_blver (r : Option Reading) : (s.setWaiting r).blver = s.blver := rfl
@[simp] theorem State.setWaiting_ckvalid (r : Option Reading) : (s.setWaiting r).ckvalid = s.ckvalid := rfl
@[simp] theorem State.setWaiting_rdata (r : Option Reading) : (s.setWaiting r).rdata = s.rdata := rfl
@[simp] theorem State.setWaiting_terr (r : Option Reading) : (s.setWaiting r).terr = s.terr := rfl
@[simp] theorem State.setWaiting_pb (r : Option Reading) : (s.setWaiting r).pb = s.pb := rfl
@[simp] theorem State.setWaiting_fb (r : Option Reading) : (s.setWaiting r).fb = s.fb := rfl
@[simp] theorem State.setWaiting_host (r : Option Reading) : (s.setWaiting r).host = s.host := rfl
@[simp] theorem State.setWaiting_extraHosts (r : Option Reading) : (s.setWaiting r).extraHosts = s.extraHosts := rfl
@[simp] theorem State.setWaiting_transport (r : Option Reading) : (s.setWaiting r).transport = s.transport := rfl
@[simp] theorem State.setWaiting_waiting (r : Option Reading) : (s.setWaiting r).waiting = r := rfl
@[simp] theorem State.setWaiting_freeCount (r : Option Reading) : (s.setWaiting r).freeCount = s.freeCount := rfl
@[simp] theorem State.setWaiting_config (r : Option Reading) : (s.setWaiting r).config = s.config := rfl

/-! ### State.advance -/

@[simp] theorem State.advance_cmd : s.advance.cmd = s.cmd := rfl
@[simp] theorem State.advance_arg0 : s.advance.arg0 = s.arg0 := rfl
@[simp] theorem State.advance_arg1 : s.advance.arg1 = s.arg1 := rfl
@[simp] theorem State.advance_err : s.advance.err = s.err := rfl
@[simp] theorem State.advance_status : s.advance.status = s.status := rfl
@[simp] theorem State.advance_mode : s.advance.mode = s.mode := rfl
@[simp] theorem State.advance_pkt : s.advance.pkt = s.pkt := rfl
@[simp] theorem State.advance_plen : s.advance.plen = s.plen := rfl
@[simp] theorem State.advance_flen : s.advance.flen = s.flen := rfl
@[simp] theorem State.advance_chk16 : s.advance.chk16 = s.chk16 := rfl
@[simp] theorem State.advance_crc32 : s.advance.crc32 = s.crc32 := rfl
@[simp] theorem State.advance_siid : s.advance.siid = s.siid := rfl
@[simp] theorem State.advance_sirev : s.advance.sirev = s.sirev := rfl
@[simp] theorem State.advance_blver : s.advance.blver = s.blver := rfl
@[simp] theorem State.advance_ckvalid : s.advance.ckvalid = s.ckvalid := rfl
@[simp] theorem State.advance_rdata : s.advance.rdata = s.rdata := rfl
@[simp] theorem State.advance_terr : s.advance.terr = s.terr := rfl
@[simp] theorem State.advance_pb : s.advance.pb = s.pb := rfl
@[simp] theorem State.advance_fb : s.advance.fb = s.fb := rfl
@[simp] theorem State.advance_host : s.advance.host = { s.host with pc := s.host.pc + 1 } := rfl
@[simp] theorem State.advance_extraHosts : s.advance.extraHosts = s.extraHosts := rfl
@[simp] theorem State.advance_transport : s.advance.transport = s.transport := rfl
@[simp] theorem State.advance_waiting : s.advance.waiting = s.waiting := rfl
@[simp] theorem State.advance_freeCount : s.advance.freeCount = s.freeCount := rfl
@[simp] theorem State.advance_config : s.advance.config = s.config := rfl

/-! ### State.receive -/

@[simp] theorem State.receive_cmd (v : Word) : (s.receive v).cmd = s.cmd := rfl
@[simp] theorem State.receive_arg0 (v : Word) : (s.receive v).arg0 = s.arg0 := rfl
@[simp] theorem State.receive_arg1 (v : Word) : (s.receive v).arg1 = s.arg1 := rfl
@[simp] theorem State.receive_err (v : Word) : (s.receive v).err = s.err := rfl
@[simp] theorem State.receive_status (v : Word) : (s.receive v).status = s.status := rfl
@[simp] theorem State.receive_mode (v : Word) : (s.receive v).mode = s.mode := rfl
@[simp] theorem State.receive_pkt (v : Word) : (s.receive v).pkt = s.pkt := rfl
@[simp] theorem State.receive_plen (v : Word) : (s.receive v).plen = s.plen := rfl
@[simp] theorem State.receive_flen (v : Word) : (s.receive v).flen = s.flen := rfl
@[simp] theorem State.receive_chk16 (v : Word) : (s.receive v).chk16 = s.chk16 := rfl
@[simp] theorem State.receive_crc32 (v : Word) : (s.receive v).crc32 = s.crc32 := rfl
@[simp] theorem State.receive_siid (v : Word) : (s.receive v).siid = s.siid := rfl
@[simp] theorem State.receive_sirev (v : Word) : (s.receive v).sirev = s.sirev := rfl
@[simp] theorem State.receive_blver (v : Word) : (s.receive v).blver = s.blver := rfl
@[simp] theorem State.receive_ckvalid (v : Word) : (s.receive v).ckvalid = s.ckvalid := rfl
@[simp] theorem State.receive_rdata (v : Word) : (s.receive v).rdata = s.rdata := rfl
@[simp] theorem State.receive_terr (v : Word) : (s.receive v).terr = s.terr := rfl
@[simp] theorem State.receive_pb (v : Word) : (s.receive v).pb = s.pb := rfl
@[simp] theorem State.receive_fb (v : Word) : (s.receive v).fb = s.fb := rfl
@[simp] theorem State.receive_host (v : Word) : (s.receive v).host = { s.host with received := s.host.received ++ [v] } := rfl
@[simp] theorem State.receive_extraHosts (v : Word) : (s.receive v).extraHosts = s.extraHosts := rfl
@[simp] theorem State.receive_transport (v : Word) : (s.receive v).transport = s.transport := rfl
@[simp] theorem State.receive_waiting (v : Word) : (s.receive v).waiting = s.waiting := rfl
@[simp] theorem State.receive_freeCount (v : Word) : (s.receive v).freeCount = s.freeCount := rfl
@[simp] theorem State.receive_config (v : Word) : (s.receive v).config = s.config := rfl

/-! ### State.loseWindow -/

@[simp] theorem State.loseWindow_cmd (a n : Nat) : (s.loseWindow a n).cmd = s.cmd := rfl
@[simp] theorem State.loseWindow_arg0 (a n : Nat) : (s.loseWindow a n).arg0 = s.arg0 := rfl
@[simp] theorem State.loseWindow_arg1 (a n : Nat) : (s.loseWindow a n).arg1 = s.arg1 := rfl
@[simp] theorem State.loseWindow_err (a n : Nat) : (s.loseWindow a n).err = s.err := rfl
@[simp] theorem State.loseWindow_status (a n : Nat) : (s.loseWindow a n).status = s.status := rfl
@[simp] theorem State.loseWindow_mode (a n : Nat) : (s.loseWindow a n).mode = s.mode := rfl
@[simp] theorem State.loseWindow_pkt (a n : Nat) : (s.loseWindow a n).pkt = s.pkt := rfl
@[simp] theorem State.loseWindow_plen (a n : Nat) : (s.loseWindow a n).plen = s.plen := rfl
@[simp] theorem State.loseWindow_flen (a n : Nat) : (s.loseWindow a n).flen = s.flen := rfl
@[simp] theorem State.loseWindow_chk16 (a n : Nat) : (s.loseWindow a n).chk16 = s.chk16 := rfl
@[simp] theorem State.loseWindow_crc32 (a n : Nat) : (s.loseWindow a n).crc32 = s.crc32 := rfl
@[simp] theorem State.loseWindow_siid (a n : Nat) : (s.loseWindow a n).siid = s.siid := rfl
@[simp] theorem State.loseWindow_sirev (a n : Nat) : (s.loseWindow a n).sirev = s.sirev := rfl
@[simp] theorem State.loseWindow_blver (a n : Nat) : (s.loseWindow a n).blver = s.blver := rfl
@[simp] theorem State.loseWindow_ckvalid (a n : Nat) : (s.loseWindow a n).ckvalid = s.ckvalid := rfl
@[simp] theorem State.loseWindow_rdata (a n : Nat) : (s.loseWindow a n).rdata = s.rdata := rfl
@[simp] theorem State.loseWindow_terr (a n : Nat) : (s.loseWindow a n).terr = s.terr := rfl
@[simp] theorem State.loseWindow_pb (a n : Nat) : (s.loseWindow a n).pb = s.pb := rfl
@[simp] theorem State.loseWindow_fb (a n : Nat) : (s.loseWindow a n).fb = s.fb.writeBytes a ((List.range n).map fun k => Config.freeByte (s.freeCount + k)) := rfl
@[simp] theorem State.loseWindow_host (a n : Nat) : (s.loseWindow a n).host = s.host := rfl
@[simp] theorem State.loseWindow_extraHosts (a n : Nat) : (s.loseWindow a n).extraHosts = s.extraHosts := rfl
@[simp] theorem State.loseWindow_transport (a n : Nat) : (s.loseWindow a n).transport = s.transport := rfl
@[simp] theorem State.loseWindow_waiting (a n : Nat) : (s.loseWindow a n).waiting = s.waiting := rfl
@[simp] theorem State.loseWindow_freeCount (a n : Nat) : (s.loseWindow a n).freeCount = s.freeCount + n := rfl
@[simp] theorem State.loseWindow_config (a n : Nat) : (s.loseWindow a n).config = s.config := rfl

/-! ### State.deliver -/

@[simp] theorem State.deliver_cmd (evs : List TEvent) : (s.deliver evs).cmd = s.cmd := rfl
@[simp] theorem State.deliver_arg0 (evs : List TEvent) : (s.deliver evs).arg0 = s.arg0 := rfl
@[simp] theorem State.deliver_arg1 (evs : List TEvent) : (s.deliver evs).arg1 = s.arg1 := rfl
@[simp] theorem State.deliver_err (evs : List TEvent) : (s.deliver evs).err = s.err := rfl
@[simp] theorem State.deliver_status (evs : List TEvent) : (s.deliver evs).status = s.status := rfl
@[simp] theorem State.deliver_mode (evs : List TEvent) : (s.deliver evs).mode = s.mode := rfl
@[simp] theorem State.deliver_pkt (evs : List TEvent) : (s.deliver evs).pkt = s.pkt := rfl
@[simp] theorem State.deliver_plen (evs : List TEvent) : (s.deliver evs).plen = s.plen := rfl
@[simp] theorem State.deliver_flen (evs : List TEvent) : (s.deliver evs).flen = s.flen := rfl
@[simp] theorem State.deliver_chk16 (evs : List TEvent) : (s.deliver evs).chk16 = s.chk16 := rfl
@[simp] theorem State.deliver_crc32 (evs : List TEvent) : (s.deliver evs).crc32 = s.crc32 := rfl
@[simp] theorem State.deliver_siid (evs : List TEvent) : (s.deliver evs).siid = s.siid := rfl
@[simp] theorem State.deliver_sirev (evs : List TEvent) : (s.deliver evs).sirev = s.sirev := rfl
@[simp] theorem State.deliver_blver (evs : List TEvent) : (s.deliver evs).blver = s.blver := rfl
@[simp] theorem State.deliver_ckvalid (evs : List TEvent) : (s.deliver evs).ckvalid = s.ckvalid := rfl
@[simp] theorem State.deliver_rdata (evs : List TEvent) : (s.deliver evs).rdata = s.rdata := rfl
@[simp] theorem State.deliver_terr (evs : List TEvent) : (s.deliver evs).terr = s.terr := rfl
@[simp] theorem State.deliver_pb (evs : List TEvent) : (s.deliver evs).pb = s.pb := rfl
@[simp] theorem State.deliver_fb (evs : List TEvent) : (s.deliver evs).fb = s.fb := rfl
@[simp] theorem State.deliver_host (evs : List TEvent) : (s.deliver evs).host = s.host := rfl
@[simp] theorem State.deliver_extraHosts (evs : List TEvent) : (s.deliver evs).extraHosts = s.extraHosts := rfl
@[simp] theorem State.deliver_transport (evs : List TEvent) : (s.deliver evs).transport = s.transport.deliver evs := rfl
@[simp] theorem State.deliver_waiting (evs : List TEvent) : (s.deliver evs).waiting = s.waiting := rfl
@[simp] theorem State.deliver_freeCount (evs : List TEvent) : (s.deliver evs).freeCount = s.freeCount := rfl
@[simp] theorem State.deliver_config (evs : List TEvent) : (s.deliver evs).config = s.config := rfl

end Sys2Proof.Machine
end

