-- ==== Sys2Proof/Laws/Ops.lean ====
section
/-! SUPPORT. What the shared operations do: how a command ends, the fill counts, the transport read, the payload
bytes, the host's next access and the launch test. -/

namespace Sys2Proof.Machine

/-! ### How a command ends -/

@[simp] theorem complete_eq_next {s t : State} : complete s = .next t ↔ t = s.setErr .ok := by
  simp [complete, eq_comm]

@[simp] theorem raise_eq_next {c : ResultCode} {s t : State} : raise c s = .next t ↔ t = s.setErr c := by
  simp [raise, eq_comm]

@[simp] theorem complete_ne_fault {s : State} {f : Fault} : complete s ≠ .fault f := by simp [complete]

@[simp] theorem raise_ne_fault {c : ResultCode} {s : State} {f : Fault} : raise c s ≠ .fault f := by simp [raise]

@[simp] theorem complete_ne_refused {s : State} {r : Refusal} : complete s ≠ .refused r := by simp [complete]

@[simp] theorem raise_ne_refused {c : ResultCode} {s : State} {r : Refusal} : raise c s ≠ .refused r := by simp [raise]

/-! ### Result codes -/

theorem isResultCode_bits {c : ResultCode} (h : c ≠ .btldr 0#8) : isResultCode c.bits = true := by
  cases c with
  | btldr s =>
    revert h
    simp only [ne_eq, ResultCode.btldr.injEq]
    revert s
    decide
  | _ => decide

/-! ### Fill counts -/

theorem toNat_fill {n : Nat} (h : n ≤ fbufSize) : (BitVec.ofNat 13 n).toNat = n := by
  rw [BitVec.toNat_ofNat]
  exact Nat.mod_eq_of_lt (Nat.lt_of_le_of_lt h (by decide))

theorem toNat_fill_payload {n : Nat} (h : n ≤ pbufSize) : (BitVec.ofNat 13 n).toNat = n :=
  toNat_fill (Nat.le_trans h (by decide))

@[simp] theorem length_payload (s : State) : (payload s).length = s.plen.toNat := Memory.length_readBytes ..

@[simp] theorem length_frameBytes (s : State) : (frameBytes s).length = s.flen.toNat := Memory.length_readBytes ..

theorem payload_eq (s : State) : payload s = (List.range s.plen.toNat).map s.pb.read := Memory.readBytes_zero ..

theorem frameBytes_eq (s : State) : frameBytes s = (List.range s.flen.toNat).map s.fb.read := Memory.readBytes_zero ..

/-! ### Little-endian fields -/

@[simp] theorem length_leBytes (n v : Nat) : (leBytes n v).length = n := by
  induction n generalizing v with
  | zero => rfl
  | succ n ih => simp [leBytes, ih]

theorem leBytes_two (v : Nat) : leBytes 2 v = [BitVec.ofNat 8 v, BitVec.ofNat 8 (v / 256)] := rfl

theorem le_two (a b : Byte) : le [a, b] = a.toNat + 256 * b.toNat := by simp [le]

/-- The length field and the checksum field read back (R64). -/
theorem le_leBytes_two {v : Nat} (h : v < 65536) : le (leBytes 2 v) = v := by
  rw [leBytes_two, le_two]
  simp only [BitVec.toNat_ofNat]
  omega

theorem readBytes_two (m : Memory) (a : Nat) : m.readBytes a 2 = [m.read a, m.read (a + 1)] := rfl

/-! ### The transport read -/

theorem tread_bytes (w : List Byte) (rest : List TEvent) :
    tread w.length (w.map TEvent.byte ++ rest) = .ok w rest := by
  induction w with
  | nil => rfl
  | cons b w ih => simp [tread, ih]

theorem tread_fail {k : Nat} {bytes : List Byte} (h : bytes.length < k) (e : Word) (rest : List TEvent) :
    tread k (bytes.map TEvent.byte ++ .fail e :: rest) = .fail e rest := by
  induction bytes generalizing k with
  | nil =>
    cases k with
    | zero => simp at h
    | succ k => rfl
  | cons b bytes ih =>
    cases k with
    | zero => simp at h
    | succ k => simp [tread, ih (Nat.lt_of_succ_lt_succ h)]

theorem tread_unanswered {k : Nat} {bytes : List Byte} (h : bytes.length < k) :
    tread k (bytes.map TEvent.byte) = .unanswered := by
  induction bytes generalizing k with
  | nil =>
    cases k with
    | zero => simp at h
    | succ k => rfl
  | cons b bytes ih =>
    cases k with
    | zero => simp at h
    | succ k => simp [tread, ih (Nat.lt_of_succ_lt_succ h)]

/-- What an answer of `TRead(k)` says of the stream: exactly the bytes, or the bytes before the failure and the
failure, are gone from it; or it holds fewer than `k` bytes and no failure. -/
theorem tread_spec (k : Nat) (evs : List TEvent) :
    match tread k evs with
    | .ok bytes rest => bytes.length = k ∧ evs = bytes.map TEvent.byte ++ rest
    | .fail e rest => ∃ bytes : List Byte, bytes.length < k ∧ evs = bytes.map TEvent.byte ++ .fail e :: rest
    | .unanswered => ∃ bytes : List Byte, bytes.length < k ∧ evs = bytes.map TEvent.byte := by
  induction k generalizing evs with
  | zero => exact ⟨rfl, rfl⟩
  | succ k ih =>
    cases evs with
    | nil => exact ⟨[], Nat.succ_pos k, rfl⟩
    | cons ev evs =>
      cases ev with
      | fail e => exact ⟨[], Nat.succ_pos k, rfl⟩
      | byte b =>
        have := ih evs
        simp only [tread]
        cases h : tread k evs with
        | ok bytes rest =>
          rw [h] at this
          exact ⟨by simp [this.1], by simp [this.2]⟩
        | fail e rest =>
          rw [h] at this
          obtain ⟨bytes, hl, rfl⟩ := this
          exact ⟨b :: bytes, Nat.succ_lt_succ hl, rfl⟩
        | unanswered =>
          rw [h] at this
          obtain ⟨bytes, hl, rfl⟩ := this
          exact ⟨b :: bytes, Nat.succ_lt_succ hl, rfl⟩

/-- A completed read is not changed by what arrives behind it. -/
theorem tread_ok_append {k : Nat} {evs rest : List TEvent} {bytes : List Byte} (h : tread k evs = .ok bytes rest)
    (more : List TEvent) : tread k (evs ++ more) = .ok bytes (rest ++ more) := by
  have spec := tread_spec k evs
  rw [h] at spec
  rw [spec.2, ← spec.1, List.append_assoc, tread_bytes]

theorem tread_fail_append {k : Nat} {evs rest : List TEvent} {e : Word} (h : tread k evs = .fail e rest)
    (more : List TEvent) : tread k (evs ++ more) = .fail e (rest ++ more) := by
  have spec := tread_spec k evs
  rw [h] at spec
  obtain ⟨bytes, short, rfl⟩ := spec
  rw [List.append_assoc, List.cons_append, tread_fail short]

/-! ### The launch and the host's next access -/

theorem launchRefusal_eq_none {s : State} : launchRefusal s = none ↔ s.admitted = true := by
  unfold launchRefusal State.admitted
  cases s.config.wellFormed <;> cases oneHost s.extraHosts <;> simp

theorem nextAccess_of_drop {s : State} {a : Access} {more : List Access}
    (h : s.host.program.drop s.host.pc = a :: more) : nextAccess s = some a := by
  unfold nextAccess
  have := congrArg List.head? h
  simpa [List.head?_drop] using this

theorem placeAccess_get (program : List Access) (pc : Nat) (a : Access) : (placeAccess program pc a)[pc]? = some a := by
  unfold placeAccess
  have h : (program.take pc ++ List.replicate (pc - program.length) (Access.read 0#8)).length = pc := by
    simp only [List.length_append, List.length_take, List.length_replicate]
    omega
  rw [List.getElem?_append_right (by omega), h]
  simp

end Sys2Proof.Machine
end

