-- ==== Sys2Proof/Laws/Framer.lean ====
section
/-! SUPPORT. What a frame is made of, and what `emit` does. -/

namespace Sys2Proof.Machine

@[simp] theorem length_frameHead (id : Byte) (p : List Byte) : (frameHead id p).length = p.length + 4 := by
  simp only [frameHead, List.length_cons, List.length_append, length_leBytes]
  omega

@[simp] theorem length_frame (id : Byte) (p : List Byte) (mode : ChecksumMode) :
    (frame id p mode).length = p.length + 7 := by
  simp [frame]

/-- A frame is its head, the two bytes of the head's checksum, and STOP (R131). -/
theorem frame_eq (id : Byte) (p : List Byte) (mode : ChecksumMode) :
    frame id p mode = frameHead id p ++ (leBytes 2 (checksum16 (frameHead id p) mode).toNat ++ [stopByte]) := by
  rw [frame, List.append_assoc]

/-- The bytes the checksum covers (R85). -/
theorem take_frame (id : Byte) (p : List Byte) (mode : ChecksumMode) :
    (frame id p mode).take (4 + p.length) = frameHead id p := by
  rw [frame_eq, List.take_append_of_le_length (by simp [Nat.add_comm]), List.take_of_length_le (by simp [Nat.add_comm])]

/-- Everything `emit` can do (R132). -/
theorem emit_eq_next {id : Byte} {p : List Byte} {s t : State} :
    emit id p s = .next t ↔
      (maxPayload < p.length ∧ t = s.setErr .length) ∨
      (p.length ≤ maxPayload ∧
        t = (s.setFrame (s.fb.writeBytes 0 (frame id p s.mode)) (frame id p s.mode).length).setErr .ok) := by
  unfold emit
  by_cases h : maxPayload < p.length
  · simp [h, Nat.not_le.2 h]
  · simp [h, Nat.not_lt.1 h]

theorem emit_ne_fault {id : Byte} {p : List Byte} {s : State} {f : Fault} : emit id p s ≠ .fault f := by
  unfold emit
  split <;> simp

/-- A payload that fits becomes a frame in FB. -/
theorem emit_frameBuilt (id : Byte) {p : List Byte} (s : State) (h : p.length ≤ 4096) :
    ∃ t, emit id p s = .next t ∧ s.frameBuilt t id p := by
  refine ⟨_, emit_eq_next.2 (.inr ⟨h, rfl⟩), rfl, ?_, fun a => ?_⟩
  · simp only [State.setErr_flen, State.setFrame_flen, length_frame]
    exact toNat_fill (by simp only [fbufSize]; omega)
  · simp only [State.setErr_fb, State.setFrame_fb, Memory.read_writeBytes, Nat.not_lt_zero, if_false, Nat.sub_zero]

/-- A builder either reports LENGTH, which only BPROG, BVERIFY and BEIV can with a legal fill count, or emits a frame
(R132, R154). -/
theorem builder_cases {i : Instr} (hi : isBuilder i = true) (s : State) :
    (exec i s = raise .length s ∧ mayReport i .length = true) ∨
    ∃ id p, exec i s = emit id p s ∧
      (p.length ≤ maxPayload ∨ mayReport i .length = true ∨ pbufSize < s.plen.toNat) := by
  have small : ∀ {a : Nat}, a ≤ s.plen.toNat → a ≤ maxPayload ∨ pbufSize < s.plen.toNat := by
    intro a h
    simp only [maxPayload, pbufSize]
    omega
  cases i with
  | build id => exact .inr ⟨id, payload s, rfl, (small (by simp)).elim .inl (.inr ∘ .inr)⟩
  | benter =>
    refine .inr ⟨_, enterPayload s, rfl, .inl ?_⟩
    unfold enterPayload
    split <;> simp [maxPayload]
  | bexit => exact .inr ⟨_, [], rfl, .inl (by simp)⟩
  | bsend => exact .inr ⟨_, payload s, rfl, (small (by simp)).elim .inl (.inr ∘ .inr)⟩
  | bsendnr => exact .inr ⟨_, payload s, rfl, (small (by simp)).elim .inl (.inr ∘ .inr)⟩
  | bprog => exact .inr ⟨_, rowPayload s, rfl, .inr (.inl rfl)⟩
  | bverify => exact .inr ⟨_, rowPayload s, rfl, .inr (.inl rfl)⟩
  | berase => exact .inr ⟨_, erasePayload s, rfl, .inl (by simp [erasePayload, maxPayload])⟩
  | bvchk app => exact .inr ⟨_, [app], rfl, .inl (by simp [maxPayload])⟩
  | bmeta app => exact .inr ⟨_, metaPayload app s, rfl, .inl (by simp [metaPayload, maxPayload])⟩
  | beiv =>
    by_cases h : ivLength s.plen.toNat = true
    · exact .inr ⟨s.config.cmdSetEiv, payload s, by simp only [exec, execBeiv, h, if_true], .inr (.inl rfl)⟩
    · exact .inl ⟨by simp only [exec, execBeiv, h]; rfl, rfl⟩
  | _ => simp [isBuilder] at hi

end Sys2Proof.Machine
end

