-- ==== Sys2Proof/Laws/Parser.lean ====
section
/-! SUPPORT. What the common check of the parse commands does, and what the commands do with it. -/

namespace Sys2Proof.Machine

theorem markersFit_iff {fb : Memory} {d : Nat} :
    markersFit fb d = true ↔
      fb.read 0 = 0x01#8 ∧ (fb.read 2).toNat + 256 * (fb.read 3).toNat = d ∧ fb.read (d + 6) = 0x17#8 := by
  simp [markersFit, readBytes_two, le_two, startByte, stopByte, and_assoc]

theorem declaredLength_eq (fb : Memory) : declaredLength fb = (fb.read 2).toNat + 256 * (fb.read 3).toNat := by
  simp [declaredLength, readBytes_two, le_two]

theorem checksumFits_iff {s : State} {d : Nat} : checksumFits s.fb d s.mode = true ↔ s.checksumRight d := by
  have e : 4 + d + 1 = 5 + d := by omega
  simp [checksumFits, State.checksumRight, readBytes_two, le_two, Memory.readBytes_zero, e]

/-- Markers and length field of a frame whose length passed step 1. -/
theorem wellMarked_iff {s : State} {d : Nat} (hn : s.flen.toNat = d + 7) :
    s.wellMarked d ↔ markersFit s.fb d = true := by
  have e : s.flen.toNat - 1 = d + 6 := by omega
  simp [State.wellMarked, markersFit_iff, hn]

/-- The steps of `check(d, e)` (R161), each with what the steps before it passed. -/
theorem check_length {s : State} {d : Half} {e : Byte} (h : s.flen.toNat ≠ d.toNat + 7) :
    check d e s = .fails .length := by
  simp [check, baseCmdSize, h]

theorem check_status {s : State} {d : Half} {e : Byte} (hf : s.flen.toNat ≤ 4103) (hn : s.flen.toNat = d.toNat + 7)
    (h : s.fb.read 1 ≠ e) : check d e s = statusFailure (s.fb.read 1) := by
  have hf' : d.toNat + 7 ≤ 4103 := by omega
  simp [check, baseCmdSize, fbufSize, hn, hf', h]

theorem check_markers {s : State} {d : Half} {e : Byte} (hf : s.flen.toNat ≤ 4103) (hn : s.flen.toNat = d.toNat + 7)
    (he : s.fb.read 1 = e) (h : ¬ s.wellMarked d.toNat) : check d e s = .fails .data := by
  have hf' : d.toNat + 7 ≤ 4103 := by omega
  rw [wellMarked_iff hn] at h
  simp [check, baseCmdSize, fbufSize, hn, hf', he, h]

theorem check_checksum {s : State} {d : Half} {e : Byte} (hf : s.flen.toNat ≤ 4103) (he : s.fb.read 1 = e)
    (hm : s.wellMarked d.toNat) (hc : s.config.parseChecksChecksum = true) (h : ¬ s.checksumRight d.toNat) :
    check d e s = .fails .data := by
  have hn := hm.1
  have hf' : d.toNat + 7 ≤ 4103 := by omega
  rw [wellMarked_iff hn] at hm
  rw [← checksumFits_iff] at h
  simp [check, baseCmdSize, fbufSize, hn, hf', he, hm, hc, h]

theorem check_pass {s : State} {d : Half} {e : Byte} (hf : s.flen.toNat ≤ 4103) (he : s.fb.read 1 = e)
    (hm : s.wellMarked d.toNat) (h : s.config.parseChecksChecksum = true → s.checksumRight d.toNat) :
    check d e s = .pass e := by
  have hn := hm.1
  have hf' : d.toNat + 7 ≤ 4103 := by omega
  rw [wellMarked_iff hn] at hm
  rw [← checksumFits_iff] at h
  simp only [check, baseCmdSize, fbufSize, hn, he, hm]
  simpa [Nat.not_lt.2 hf'] using h

/-- Everything a checked parse can do (R161, R162): it passes and writes its outputs, or it reports LENGTH or DATA with
STATUS kept, or BTLDR of a nonzero status or RESPONSE (only for an expected status that is not 0) with STATUS written;
or FLEN is past the end of FB. -/
theorem checked_cases (d : Half) (e : Byte) (s : State) (k : State → State) :
    checked d e s k = complete (k (s.setStatus e)) ∨
    (∃ c, (c = .length ∨ c = .data) ∧ checked d e s k = raise c s) ∨
    (∃ st, st ≠ 0#8 ∧ checked d e s k = raise (.btldr st) (s.setStatus st)) ∨
    (e ≠ 0#8 ∧ checked d e s k = raise .response (s.setStatus 0#8)) ∨
    (checked d e s k = .fault .frameAddress ∧ fbufSize < s.flen.toNat ∧ s.flen.toNat = d.toNat + 7) := by
  unfold checked check
  split_ifs with h1 h2 h3 h4 h5
  · exact .inr (.inl ⟨.length, .inl rfl, rfl⟩)
  · exact .inr (.inr (.inr (.inr ⟨rfl, h2, not_not.1 h1⟩)))
  · unfold statusFailure
    split_ifs with hz
    · exact .inr (.inr (.inl ⟨_, hz, rfl⟩))
    · rw [not_not] at hz
      rw [hz] at h3
      exact .inr (.inr (.inr (.inl ⟨fun he => h3 he.symm, by rw [hz]⟩)))
  · exact .inr (.inl ⟨.data, .inr rfl, rfl⟩)
  · exact .inl (by rw [not_not.1 h3])
  · exact .inr (.inl ⟨.data, .inr rfl, rfl⟩)

theorem selfConsistent_iff {s : State} :
    selfConsistent s = true ↔
      s.fb.read 0 = 0x01#8 ∧ s.fb.read (declaredLength s.fb + 6) = 0x17#8 ∧ s.checksumRight (declaredLength s.fb) := by
  simp [selfConsistent, checksumFits_iff, startByte, stopByte, and_assoc]

/-- Everything PTRY can do (R177). -/
theorem execPtry_cases (s : State) :
    execPtry s = complete (s.setStatus (s.fb.read 1)) ∨ execPtry s = raise .unknown s ∨
    (execPtry s = .fault .frameAddress ∧ fbufSize < s.flen.toNat) := by
  unfold execPtry
  split
  · exact .inr (.inl rfl)
  · split
    · exact .inr (.inr ⟨rfl, ‹_›⟩)
    · split
      · exact .inr (.inl rfl)
      · split
        · exact .inl rfl
        · exact .inr (.inl rfl)

end Sys2Proof.Machine
end

