-- ==== Sys2Proof/Laws/Resync.lean ====
section
/-! SUPPORT. What the reads of one RREAD do: on a stream whose start is known; for any stream, what they consume of it
and which reads they issue; and that a wait for the transport changes nothing of how they end. -/

namespace Sys2Proof.Machine

@[simp] theorem Transport.issue_stream (k : Nat) (t : Transport) : (t.issue k).stream = t.stream := rfl
@[simp] theorem Transport.issue_reads (k : Nat) (t : Transport) : (t.issue k).reads = t.reads ++ [k] := rfl
@[simp] theorem Transport.deliver_stream (evs : List TEvent) (t : Transport) :
    (t.deliver evs).stream = t.stream ++ evs := rfl
@[simp] theorem Transport.deliver_reads (evs : List TEvent) (t : Transport) : (t.deliver evs).reads = t.reads := rfl

/-! ### One read of a known stream -/

theorem answerThen_bytes {r : Reading} {t : Transport} {w : List Byte} {rest : List TEvent} (hk : w.length = r.count)
    (h : t.stream = w.map TEvent.byte ++ rest) (next : List Byte → Transport → ReadEnd × Transport) :
    answerThen r t next = next w ⟨rest, t.reads⟩ := by
  simp [answerThen, ← hk, h, tread_bytes]

theorem answerThen_fail {r : Reading} {t : Transport} {bytes : List Byte} {e : Word} {rest : List TEvent}
    (hk : bytes.length < r.count) (h : t.stream = bytes.map TEvent.byte ++ .fail e :: rest)
    (next : List Byte → Transport → ReadEnd × Transport) :
    answerThen r t next = (.comm e, ⟨rest, t.reads⟩) := by
  simp [answerThen, h, tread_fail hk]

theorem answerThen_unanswered {r : Reading} {t : Transport} {bytes : List Byte} (hk : bytes.length < r.count)
    (h : t.stream = bytes.map TEvent.byte) (next : List Byte → Transport → ReadEnd × Transport) :
    answerThen r t next = (.unanswered r, t) := by
  simp [answerThen, h, tread_unanswered hk]

theorem treadThen_bytes {r : Reading} {t : Transport} {w : List Byte} {rest : List TEvent} (hk : w.length = r.count)
    (h : t.stream = w.map TEvent.byte ++ rest) (next : List Byte → Transport → ReadEnd × Transport) :
    treadThen r t next = next w ⟨rest, t.reads ++ [r.count]⟩ :=
  answerThen_bytes (t := t.issue r.count) hk h next

theorem treadThen_fail {r : Reading} {t : Transport} {bytes : List Byte} {e : Word} {rest : List TEvent}
    (hk : bytes.length < r.count) (h : t.stream = bytes.map TEvent.byte ++ .fail e :: rest)
    (next : List Byte → Transport → ReadEnd × Transport) :
    treadThen r t next = (.comm e, ⟨rest, t.reads ++ [r.count]⟩) :=
  answerThen_fail (t := t.issue r.count) hk h next

theorem treadThen_unanswered {r : Reading} {t : Transport} {bytes : List Byte} (hk : bytes.length < r.count)
    (h : t.stream = bytes.map TEvent.byte) (next : List Byte → Transport → ReadEnd × Transport) :
    treadThen r t next = (.unanswered r, ⟨t.stream, t.reads ++ [r.count]⟩) :=
  answerThen_unanswered (t := t.issue r.count) hk h next

/-- An RREAD starts with its raw read. -/
theorem resync_eq (filler : Byte) (pkt : Bool) (size : Nat) (t : Transport) :
    resync filler pkt size t = treadThen (.raw size) t (afterRaw filler pkt size) := rfl

theorem retryByte_succ (filler : Byte) (size n : Nat) (t : Transport) :
    retryByte filler size (n + 1) t = treadThen (.retry size n) t (afterRetry filler size n) := rfl

/-! ### The all-garbage branch on a known stream -/

/-- Retries that find filler are passed over (R194). -/
theorem retryByte_filler {filler : Byte} {size : Nat} (k : Nat) :
    ∀ {n : Nat} {t : Transport} {rest : List TEvent},
      t.stream = (List.replicate k filler).map TEvent.byte ++ rest →
      retryByte filler size (n + k) t = retryByte filler size n ⟨rest, t.reads ++ List.replicate k 1⟩ := by
  induction k with
  | zero =>
    intro n t rest h
    obtain ⟨stream, reads⟩ := t
    simp only [List.replicate_zero, List.map_nil, List.nil_append] at h
    simp [h]
  | succ k ih =>
    intro n t rest h
    rw [List.replicate_succ] at h
    rw [← Nat.add_assoc, retryByte_succ, treadThen_bytes (w := [filler]) rfl (by simpa using h), afterRetry]
    simp only [List.headD_cons, if_true]
    rw [ih (rest := rest) (by simp), List.append_assoc, List.replicate_succ]
    rfl

/-- The retry that finds a good byte goes on to the tail. -/
theorem retryByte_good {filler b : Byte} {size n : Nat} {t : Transport} {rest : List TEvent} (hb : b ≠ filler)
    (h : t.stream = .byte b :: rest) :
    retryByte filler size (n + 1) t = readTail size b ⟨rest, t.reads ++ [1]⟩ := by
  rw [retryByte_succ, treadThen_bytes (w := [b]) rfl (by simpa using h), afterRetry]
  simp [hb, Reading.count]

theorem readTail_one (good : Byte) (t : Transport) : readTail 1 good t = (.window [good], t) := rfl

theorem readTail_more {size : Nat} (h : size ≠ 1) (good : Byte) (t : Transport) :
    readTail size good t = treadThen (.tail good (size - 1)) t (afterTail good) := if_neg h

theorem leadingFiller_replicate (filler : Byte) (n : Nat) {good : List Byte} (h : good.head? ≠ some filler) :
    leadingFiller filler (List.replicate n filler ++ good) = n := by
  unfold leadingFiller
  rw [List.takeWhile_append_of_pos (by simp)]
  cases good with
  | nil => simp
  | cons b good =>
    have : b ≠ filler := by simpa using h
    simp [this]

/-! ### The ways the reads go on after the raw read of a known stream -/

/-- Mid-packet, or with no filler in front, one read is made (R193). -/
theorem resync_raw {filler : Byte} {pkt : Bool} {size : Nat} {t : Transport} {w : List Byte} {rest : List TEvent}
    (hs : 0 < size) (hw : w.length = size) (h : t.stream = w.map TEvent.byte ++ rest)
    (hp : pkt = true ∨ w.head? ≠ some filler) :
    resync filler pkt size t = (.window w, ⟨rest, t.reads ++ [size]⟩) := by
  rw [resync_eq, treadThen_bytes hw h, afterRaw]
  rcases hp with hp | hp
  · simp [hp, Reading.count]
  · have lead : leadingFiller filler w = 0 := by simpa using leadingFiller_replicate filler 0 hp
    have len : ¬ 0 = w.length := by omega
    simp [lead, len, Reading.count]

/-- Leading filler in front of a good byte: the good tail is kept and a refill is read (R195). -/
theorem resync_refill {filler : Byte} {size n : Nat} {t : Transport} {good : List Byte} {rest : List TEvent}
    (hn : 0 < n) (hg : good ≠ []) (hf : good.head? ≠ some filler) (hl : n + good.length = size)
    (h : t.stream = (List.replicate n filler ++ good).map TEvent.byte ++ rest) :
    resync filler false size t = treadThen (.refill good n) ⟨rest, t.reads ++ [size]⟩ (afterRefill good) := by
  have hw : (List.replicate n filler ++ good).length = size := by simp [hl]
  have hpos := List.length_pos_of_ne_nil hg
  have l1 : ¬ n = (List.replicate n filler ++ good).length := by omega
  have l2 : ¬ n = 0 := by omega
  rw [resync_eq, treadThen_bytes hw h, afterRaw]
  simp only [leadingFiller_replicate filler n hf, l1, l2, if_false, Bool.false_eq_true]
  rw [List.drop_left' (by simp)]
  rfl

/-- A window of filler, and `n` one-byte reads of filler behind it: what is left of the retries (R194). -/
theorem resync_retries {filler : Byte} {size n m : Nat} {t : Transport} {rest : List TEvent} (hn : m + n = 10)
    (h : t.stream = (List.replicate (size + n) filler).map TEvent.byte ++ rest) :
    resync filler false size t
      = retryByte filler size m ⟨rest, t.reads ++ ([size] ++ List.replicate n 1)⟩ := by
  have lead : leadingFiller filler (List.replicate size filler) = size := by
    simpa using leadingFiller_replicate filler size (good := []) (by simp)
  rw [resync_eq, treadThen_bytes (w := List.replicate size filler) (by simp [Reading.count])
    (rest := (List.replicate n filler).map TEvent.byte ++ rest) (by rw [h, List.replicate_add, List.map_append, List.append_assoc]), afterRaw]
  simp only [lead, List.length_replicate, if_true, if_false, Bool.false_eq_true]
  rw [retryMax, ← hn, retryByte_filler n rfl, List.append_assoc]
  rfl

/-- The good byte behind a window of filler and `n < 10` retries of filler: what is left is the tail (R194). -/
theorem resync_tail {filler good : Byte} {size n : Nat} {t : Transport} {rest : List TEvent} (hn : n < 10)
    (hg : good ≠ filler)
    (h : t.stream = (List.replicate (size + n) filler).map TEvent.byte ++ .byte good :: rest) :
    resync filler false size t = readTail size good ⟨rest, t.reads ++ ([size] ++ List.replicate (n + 1) 1)⟩ := by
  rw [resync_retries (m := (9 - n) + 1) (by omega) h, retryByte_good hg rfl, List.replicate_succ']
  simp

/-- The shift and refill (R195). -/
theorem resync_shift {filler : Byte} {size n : Nat} {t : Transport} {good refill : List Byte} {rest : List TEvent}
    (hn : 0 < n) (hg : good ≠ []) (hf : good.head? ≠ some filler) (hl : n + good.length = size)
    (hr : refill.length = n)
    (h : t.stream = (List.replicate n filler).map TEvent.byte ++ good.map TEvent.byte
      ++ refill.map TEvent.byte ++ rest) :
    resync filler false size t = (.window (good ++ refill), ⟨rest, t.reads ++ [size, n]⟩) := by
  rw [resync_refill hn hg hf hl (rest := refill.map TEvent.byte ++ rest) (by rw [h]; simp), treadThen_bytes hr rfl]
  simp [afterRefill, Reading.count]

/-- The all-garbage branch that finds a good byte (R194). -/
theorem resync_garbage {filler good : Byte} {size n : Nat} {t : Transport} {tail : List Byte} {rest : List TEvent}
    (hn : n < 10) (hg : good ≠ filler) (hl : tail.length = size - 1)
    (h : t.stream = (List.replicate (size + n) filler).map TEvent.byte ++ .byte good :: tail.map TEvent.byte ++ rest) :
    resync filler false size t = (.window (good :: tail), ⟨rest, t.reads ++ ([size] ++ List.replicate (n + 1) 1
      ++ if size = 1 then [] else [size - 1])⟩) := by
  rw [resync_tail hn hg (rest := tail.map TEvent.byte ++ rest) (by rw [h]; simp)]
  by_cases h1 : size = 1
  · subst h1
    have : tail = [] := List.eq_nil_of_length_eq_zero (by omega)
    simp [readTail_one, this]
  · rw [readTail_more h1, treadThen_bytes hl rfl]
    simp [afterTail, h1, Reading.count]

/-- The all-garbage branch that finds none (R194, R198). -/
theorem resync_timeout {filler : Byte} {size : Nat} {t : Transport} {rest : List TEvent}
    (h : t.stream = (List.replicate (size + 10) filler).map TEvent.byte ++ rest) :
    resync filler false size t = (.timeout, ⟨rest, t.reads ++ ([size] ++ List.replicate 10 1)⟩) := by
  rw [resync_retries (m := 0) rfl h]
  rfl

/-! ### Any stream -/

/-- The size of the window a legal read is part of. -/
theorem Reading.legal_size {filler : Byte} {pkt : Bool} {size : Nat} {r : Reading} (h : r.legal filler pkt size) :
    r.size = size := by
  cases r with
  | raw n => exact h
  | retry n left => exact h.1
  | tail good k => exact h.1
  | refill good k => exact h.1

/-- How a run of reads ends that starts from the transport `t`: a window has its size, a read that waits is one an RREAD
of this size can wait for and the last one issued, and of the stream exactly the events read are gone, by reads whose
sizes satisfy `shape`. -/
def ReadSpec (filler : Byte) (pkt : Bool) (size : Nat) (t : Transport) (shape : List Nat → Prop) :
    ReadEnd × Transport → Prop
  | (.window w, t') =>
    w.length = size ∧ ∃ (bytes : List Byte) (issued : List Nat), shape issued ∧
      t.stream = bytes.map TEvent.byte ++ t'.stream ∧ t'.reads = t.reads ++ issued
  | (.comm e, t') =>
    ∃ (bytes : List Byte) (issued : List Nat), shape issued ∧
      t.stream = bytes.map TEvent.byte ++ .fail e :: t'.stream ∧ t'.reads = t.reads ++ issued
  | (.timeout, t') =>
    ∃ (bytes : List Byte) (issued : List Nat), shape issued ∧
      t.stream = bytes.map TEvent.byte ++ t'.stream ∧ t'.reads = t.reads ++ issued
  | (.unanswered r, t') =>
    (r.legal filler pkt size ∧ t'.reads.getLast? = some r.count) ∧
    ∃ (bytes : List Byte) (issued : List Nat), shape issued ∧
      t.stream = bytes.map TEvent.byte ++ t'.stream ∧ t'.reads = t.reads ++ issued

/-- A run of reads after the reads `l` have consumed the bytes `w` is a run from before them. -/
theorem ReadSpec.after {filler : Byte} {pkt : Bool} {size : Nat} {t t' : Transport} {w : List Byte} {l : List Nat}
    {shape shape' : List Nat → Prop} (hs : t.stream = w.map TEvent.byte ++ t'.stream) (hr : t'.reads = t.reads ++ l)
    (hshape : ∀ m, shape m → shape' (l ++ m)) {r : ReadEnd × Transport} (h : ReadSpec filler pkt size t' shape r) :
    ReadSpec filler pkt size t shape' r := by
  have chain : ∀ {bytes : List Byte} {evs : List TEvent}, t'.stream = bytes.map TEvent.byte ++ evs →
      t.stream = (w ++ bytes).map TEvent.byte ++ evs := by
    intro bytes evs h
    rw [hs, h]
    simp
  obtain ⟨r, t''⟩ := r
  cases r with
  | window v =>
    obtain ⟨hl, bytes, issued, hi, h1, h2⟩ := h
    exact ⟨hl, w ++ bytes, l ++ issued, hshape _ hi, chain h1, by rw [h2, hr]; simp⟩
  | comm e =>
    obtain ⟨bytes, issued, hi, h1, h2⟩ := h
    exact ⟨w ++ bytes, l ++ issued, hshape _ hi, chain h1, by rw [h2, hr]; simp⟩
  | timeout =>
    obtain ⟨bytes, issued, hi, h1, h2⟩ := h
    exact ⟨w ++ bytes, l ++ issued, hshape _ hi, chain h1, by rw [h2, hr]; simp⟩
  | unanswered r =>
    obtain ⟨hl, bytes, issued, hi, h1, h2⟩ := h
    exact ⟨hl, w ++ bytes, l ++ issued, hshape _ hi, chain h1, by rw [h2, hr]; simp⟩

/-- A spec holds of every wider set of reads. -/
theorem ReadSpec.mono {filler : Byte} {pkt : Bool} {size : Nat} {t : Transport} {shape shape' : List Nat → Prop}
    (hshape : ∀ l, shape l → shape' l) {r : ReadEnd × Transport} (h : ReadSpec filler pkt size t shape r) :
    ReadSpec filler pkt size t shape' r :=
  h.after (w := []) (l := []) (by simp) (by simp) hshape

/-- The answer to an issued read, and what follows it. -/
theorem answerThen_spec {filler : Byte} {pkt : Bool} {size : Nat} {t : Transport} {r : Reading}
    {shape : List Nat → Prop} {next : List Byte → Transport → ReadEnd × Transport}
    (legal : r.legal filler pkt size) (last : t.reads.getLast? = some r.count) (none : shape [])
    (hnext : ∀ w t', w.length = r.count → ReadSpec filler pkt size t' shape (next w t')) :
    ReadSpec filler pkt size t shape (answerThen r t next) := by
  unfold answerThen
  have := tread_spec r.count t.stream
  cases h : tread r.count t.stream with
  | ok bytes rest =>
    rw [h] at this
    exact (hnext bytes _ this.1).after (l := []) this.2 (by simp) fun _ h => h
  | fail e rest =>
    rw [h] at this
    obtain ⟨bytes, -, hs⟩ := this
    exact ⟨bytes, [], none, hs, by simp⟩
  | unanswered => exact ⟨⟨legal, last⟩, [], [], none, rfl, by simp⟩

/-- A read that is issued and answered. -/
theorem treadThen_spec {filler : Byte} {pkt : Bool} {size : Nat} {t : Transport} {r : Reading}
    {shape shape' : List Nat → Prop} {next : List Byte → Transport → ReadEnd × Transport}
    (legal : r.legal filler pkt size) (one : shape' [r.count]) (hshape : ∀ l, shape l → shape' (r.count :: l))
    (hnext : ∀ w t', w.length = r.count → ReadSpec filler pkt size t' shape (next w t')) :
    ReadSpec filler pkt size t shape' (treadThen r t next) := by
  refine ReadSpec.after (t := t) (t' := t.issue r.count) (w := []) (l := [r.count]) (shape := fun l => l = [] ∨ shape l) rfl
    (t.issue_reads r.count)
    ?_ (answerThen_spec legal (by simp) (.inl rfl) fun w t' hw => (hnext w t' hw).mono fun _ h => .inr h)
  rintro l (rfl | h)
  · exact one
  · exact hshape l h

/-- The tail of the all-garbage branch: no read, or one of `size − 1` bytes. -/
theorem readTail_spec {filler good : Byte} {size : Nat} (hs : 0 < size) (hg : good ≠ filler) (t : Transport) :
    ReadSpec filler false size t (fun l => l = [] ∨ (1 < size ∧ l = [size - 1])) (readTail size good t) := by
  by_cases h1 : size = 1
  · subst h1
    exact ⟨rfl, [], [], .inl rfl, rfl, by simp⟩
  · rw [readTail_more h1]
    refine treadThen_spec (shape := fun l => l = []) ⟨by omega, by omega, hg, rfl⟩ (.inr ⟨by omega, rfl⟩) ?_ ?_
    · rintro l rfl
      exact .inr ⟨by omega, rfl⟩
    · intro w t' hw
      refine ⟨?_, [], [], rfl, rfl, by simp⟩
      simp only [Reading.count] at hw
      simp only [List.length_cons]
      omega

/-- The sizes of the reads of the all-garbage branch with `n` retries left. -/
def retryShape (size n : Nat) (l : List Nat) : Prop :=
  ∃ k ≤ n, l = List.replicate k 1 ∨ (1 < size ∧ l = List.replicate k 1 ++ [size - 1])

theorem retryShape.cons {size n : Nat} {l : List Nat} (h : retryShape size n l) : retryShape size (n + 1) (1 :: l) := by
  obtain ⟨k, hk, rfl | ⟨h1, rfl⟩⟩ := h
  · exact ⟨k + 1, by omega, .inl rfl⟩
  · exact ⟨k + 1, by omega, .inr ⟨h1, rfl⟩⟩

/-- What follows a one-byte read, from what the retries left do. -/
theorem afterRetry_of_retryByte {filler : Byte} {size n : Nat} (hs : 0 < size)
    (h : ∀ t, ReadSpec filler false size t (retryShape size n) (retryByte filler size n t)) (w : List Byte)
    (t : Transport) : ReadSpec filler false size t (retryShape size n) (afterRetry filler size n w t) := by
  unfold afterRetry
  split
  · exact h t
  · rename_i hg
    refine (readTail_spec hs hg t).mono fun l hl => ⟨0, Nat.zero_le n, ?_⟩
    rcases hl with rfl | ⟨h1, rfl⟩
    · exact .inl rfl
    · exact .inr ⟨h1, rfl⟩

theorem retryByte_spec {filler : Byte} {size : Nat} (hs : 0 < size) (n : Nat) (hn : n ≤ retryMax) (t : Transport) :
    ReadSpec filler false size t (retryShape size n) (retryByte filler size n t) := by
  induction n generalizing t with
  | zero => exact ⟨[], [], ⟨0, Nat.le_refl 0, .inl rfl⟩, rfl, by simp⟩
  | succ n ih =>
    rw [retryByte_succ]
    exact treadThen_spec ⟨rfl, hn, rfl⟩ ⟨1, by omega, .inl rfl⟩ (fun _ => retryShape.cons) fun w t' _ =>
      afterRetry_of_retryByte hs (ih (Nat.le_of_succ_le hn)) w t'

theorem afterRetry_spec {filler : Byte} {size n : Nat} (hs : 0 < size) (hn : n ≤ retryMax) (w : List Byte)
    (t : Transport) : ReadSpec filler false size t (retryShape size n) (afterRetry filler size n w t) :=
  afterRetry_of_retryByte hs (retryByte_spec hs n hn) w t

/-- The sizes of the reads one RREAD can issue (R200). -/
def issuedShape (pkt : Bool) (size : Nat) (l : List Nat) : Prop :=
  l = [size] ∨
  (pkt = false ∧ ∃ n, 0 < n ∧ n < size ∧ l = [size, n]) ∨
  (pkt = false ∧ ∃ n ≤ 10, l = [size] ++ List.replicate n 1 ∨
    (1 < size ∧ l = [size] ++ List.replicate n 1 ++ [size - 1]))

/-- The good tail starts with no filler. -/
theorem head?_drop_leadingFiller (filler : Byte) (w : List Byte) :
    (w.drop (leadingFiller filler w)).head? ≠ some filler := by
  induction w with
  | nil => simp
  | cons b w ih =>
    by_cases h : b = filler
    · simpa [leadingFiller, h] using ih
    · simp [leadingFiller, h]

/-- What follows the raw read. -/
theorem afterRaw_spec (filler : Byte) (pkt : Bool) {size : Nat} (hs : 0 < size) {w : List Byte} (hw : w.length = size)
    (t : Transport) :
    ReadSpec filler pkt size t (fun l => issuedShape pkt size (size :: l)) (afterRaw filler pkt size w t) := by
  have le : leadingFiller filler w ≤ w.length := (List.takeWhile_prefix _).length_le
  unfold afterRaw
  cases pkt with
  | true => exact ⟨hw, [], [], .inl rfl, rfl, by simp⟩
  | false =>
    simp only [Bool.false_eq_true, if_false]
    split_ifs with h1 h2
    · refine (retryByte_spec hs retryMax (Nat.le_refl _) t).mono ?_
      rintro l ⟨k, hk, h⟩
      exact .inr (.inr ⟨rfl, k, hk, h.imp (congrArg _) fun h => ⟨h.1, congrArg _ h.2⟩⟩)
    · exact ⟨hw, [], [], .inl rfl, rfl, by simp⟩
    · refine treadThen_spec (shape := fun l => l = []) ⟨?_, ?_, ?_, head?_drop_leadingFiller filler w, rfl⟩
        (.inr (.inl ⟨rfl, _, Nat.pos_of_ne_zero h2, by omega, rfl⟩)) ?_ ?_
      · simp only [List.length_drop]
        omega
      · omega
      · intro e
        have := congrArg List.length e
        simp only [List.length_drop, List.length_nil] at this
        omega
      · rintro l rfl
        exact .inr (.inl ⟨rfl, _, Nat.pos_of_ne_zero h2, by omega, rfl⟩)
      · intro r t' hr
        refine ⟨?_, [], [], rfl, rfl, by simp⟩
        simp only [Reading.count] at hr
        simp only [List.length_append, List.length_drop]
        omega

/-- Everything the reads of one RREAD can do. -/
theorem resync_spec (filler : Byte) (pkt : Bool) {size : Nat} (hs : 0 < size) (t : Transport) :
    ReadSpec filler pkt size t (issuedShape pkt size) (resync filler pkt size t) := by
  rw [resync_eq]
  exact treadThen_spec rfl (.inl rfl) (fun _ h => h) fun w t' hw => afterRaw_spec filler pkt hs hw t'

/-- Everything the reads of one RREAD can do from a read it waits for on. -/
theorem goOn_spec {filler : Byte} {pkt : Bool} {size : Nat} (hs : 0 < size) {r : Reading} {t : Transport}
    (legal : r.legal filler pkt size) (last : t.reads.getLast? = some r.count) :
    ReadSpec filler pkt size t (fun _ => True) (goOn filler pkt r t) := by
  cases r with
  | raw n =>
    cases legal
    exact answerThen_spec rfl last trivial fun w t' hw => (afterRaw_spec filler pkt hs hw t').mono fun _ _ => trivial
  | retry n left =>
    obtain ⟨rfl, hl, rfl⟩ := legal
    exact answerThen_spec ⟨rfl, hl, rfl⟩ last trivial fun w t' _ =>
      (afterRetry_spec hs (Nat.le_of_lt hl) w t').mono fun _ _ => trivial
  | tail good k =>
    refine answerThen_spec legal last trivial fun w t' hw => ⟨?_, [], [], trivial, rfl, by simp⟩
    have := legal.1
    simp only [Reading.count] at hw
    simp only [List.length_cons]
    omega
  | refill good k =>
    refine answerThen_spec legal last trivial fun w t' hw => ⟨?_, [], [], trivial, rfl, by simp⟩
    have := legal.1
    simp only [Reading.count] at hw
    simp only [List.length_append]
    omega

/-! ### A wait changes nothing -/

/-- How reads end once `evs` have arrived behind what was there: as they ended, or, where they waited, as they go on. -/
def settleWith (filler : Byte) (pkt : Bool) (evs : List TEvent) : ReadEnd × Transport → ReadEnd × Transport
  | (.unanswered r, t) => goOn filler pkt r (t.deliver evs)
  | (.window w, t) => (.window w, t.deliver evs)
  | (.comm e, t) => (.comm e, t.deliver evs)
  | (.timeout, t) => (.timeout, t.deliver evs)

/-- What follows an issued read in `goOn`. -/
def afterRead (filler : Byte) (pkt : Bool) : Reading → List Byte → Transport → ReadEnd × Transport
  | .raw size => afterRaw filler pkt size
  | .retry size left => afterRetry filler size left
  | .tail good _ => afterTail good
  | .refill good _ => afterRefill good

theorem goOn_eq (filler : Byte) (pkt : Bool) (r : Reading) (t : Transport) :
    goOn filler pkt r t = answerThen r t (afterRead filler pkt r) := by cases r <;> rfl

theorem treadThen_eq (filler : Byte) (pkt : Bool) (r : Reading) (t : Transport) :
    treadThen r t (afterRead filler pkt r) = goOn filler pkt r (t.issue r.count) := by rw [goOn_eq]; rfl

theorem answerThen_deliver {filler : Byte} {pkt : Bool} (r : Reading) (t : Transport) (evs : List TEvent)
    (hnext : ∀ w t', afterRead filler pkt r w (t'.deliver evs) = settleWith filler pkt evs (afterRead filler pkt r w t')) :
    goOn filler pkt r (t.deliver evs) = settleWith filler pkt evs (goOn filler pkt r t) := by
  cases h : tread r.count t.stream with
  | ok bytes rest =>
    have h' : tread r.count (t.deliver evs).stream = .ok bytes (rest ++ evs) := tread_ok_append h evs
    rw [goOn_eq, goOn_eq, answerThen, answerThen, h, h']
    exact hnext bytes ⟨rest, t.reads⟩
  | fail e rest =>
    have h' : tread r.count (t.deliver evs).stream = .fail e (rest ++ evs) := tread_fail_append h evs
    rw [goOn_eq, goOn_eq, answerThen, answerThen, h, h']
    rfl
  | unanswered => rw [goOn_eq filler pkt r t, answerThen, h]; rfl

theorem readTail_deliver (filler : Byte) (pkt : Bool) (size : Nat) (good : Byte) (t : Transport) (evs : List TEvent) :
    readTail size good (t.deliver evs) = settleWith filler pkt evs (readTail size good t) := by
  by_cases h : size = 1
  · subst h
    rfl
  · rw [readTail_more h, readTail_more h]
    exact (treadThen_eq filler pkt (.tail good (size - 1)) _).trans
      ((answerThen_deliver _ (t.issue (size - 1)) evs fun _ _ => rfl).trans
        (congrArg _ (treadThen_eq filler pkt (.tail good (size - 1)) t).symm))

theorem retryByte_deliver (filler : Byte) (pkt : Bool) (size n : Nat) (t : Transport) (evs : List TEvent) :
    retryByte filler size n (t.deliver evs) = settleWith filler pkt evs (retryByte filler size n t) := by
  induction n generalizing t with
  | zero => rfl
  | succ n ih =>
    rw [retryByte_succ, retryByte_succ]
    refine (treadThen_eq filler pkt (.retry size n) _).trans ((answerThen_deliver _ (t.issue 1) evs fun w t' => ?_).trans
      (congrArg _ (treadThen_eq filler pkt (.retry size n) t).symm))
    simp only [afterRead, afterRetry]
    split
    · exact ih t'
    · exact readTail_deliver filler pkt size _ t' evs

/-- Whether the transport's answers are there from the start or arrive while the reads wait is the same. -/
theorem goOn_deliver (filler : Byte) (pkt : Bool) (r : Reading) (t : Transport) (evs : List TEvent) :
    goOn filler pkt r (t.deliver evs) = settleWith filler pkt evs (goOn filler pkt r t) := by
  refine answerThen_deliver r t evs fun w t' => ?_
  cases r with
  | raw size =>
    simp only [afterRead, afterRaw]
    split_ifs
    · rfl
    · exact retryByte_deliver filler pkt size _ t' evs
    · rfl
    · exact (treadThen_eq filler pkt (.refill _ _) _).trans
        ((answerThen_deliver _ (t'.issue _) evs fun _ _ => rfl).trans
          (congrArg _ (treadThen_eq filler pkt (.refill _ _) t').symm))
  | retry size left =>
    simp only [afterRead, afterRetry]
    split
    · exact retryByte_deliver filler pkt size left t' evs
    · exact readTail_deliver filler pkt size _ t' evs
  | tail good k => rfl
  | refill good k => rfl

theorem resync_deliver (filler : Byte) (pkt : Bool) (size : Nat) (t : Transport) (evs : List TEvent) :
    resync filler pkt size (t.deliver evs) = settleWith filler pkt evs (resync filler pkt size t) :=
  goOn_deliver filler pkt (.raw size) (t.issue size) evs

end Sys2Proof.Machine
end

