-- ==== Sys2Proof/Laws/Exec.lean ====
section
/-! SUPPORT. Everything one command can do, said once: the ways a command reaches a next state, and the ways it stops. -/

namespace Sys2Proof.Machine

/-- The next states a command can reach from `s`, with what is known of the path to each. -/
inductive Effect (s : State) : Instr → State → Prop
  | setmode (m : ChecksumMode) : Effect s (.setmode m) (State.setErr .ok { s with mode := m })
  | clrpb : Effect s .clrpb ((s.setPayload s.pb 0).setErr .ok)
  | clrfb : Effect s .clrfb ((s.setFrame s.fb 0).setErr .ok)
  | putpbFull (b : Byte) : Effect s (.putpb b) (s.setErr .length)
  | putpb (b : Byte) (room : s.plen.toNat < pbufSize) :
    Effect s (.putpb b) ((s.setPayload (s.pb.write s.plen.toNat b) (s.plen.toNat + 1)).setErr .ok)
  | putfbFull (b : Byte) : Effect s (.putfb b) (s.setErr .length)
  | putfb (b : Byte) (room : s.flen.toNat < fbufSize) :
    Effect s (.putfb b) ((s.setFrame (s.fb.write s.flen.toNat b) (s.flen.toNat + 1)).setErr .ok)
  | getfbBeyond (h : Half) : Effect s (.getfb h) (s.setErr .length)
  | getfb (h : Half) (valid : h.toNat < s.flen.toNat) :
    Effect s (.getfb h) (State.setErr .ok { s with rdata := s.fb.read h.toNat })
  | sum16 (src : Src) (c : Half) : Effect s (.sum16 src) (State.setErr .ok { s with chk16 := c })
  | crc16 (src : Src) (c : Half) : Effect s (.crc16 src) (State.setErr .ok { s with chk16 := c })
  | csum16 (src : Src) (c : Half) : Effect s (.csum16 src) (State.setErr .ok { s with chk16 := c })
  | crc32c (src : Src) (c : Word) : Effect s (.crc32c src) (State.setErr .ok { s with crc32 := c })
  | tooLong (i : Instr) (builder : isBuilder i = true) (why : mayReport i .length = true ∨ pbufSize < s.plen.toNat) :
    Effect s i (s.setErr .length)
  | built (i : Instr) (builder : isBuilder i = true) (id : Byte) (p : List Byte) (fits : p.length ≤ maxPayload) :
    Effect s i ((s.setFrame (s.fb.writeBytes 0 (frame id p s.mode)) (frame id p s.mode).length).setErr .ok)
  | parseFails (i : Instr) (parse : isParse i = true) (c : ResultCode) (may : mayReport i c = true)
    (code : c = .length ∨ c = .data ∨ c = .unknown) : Effect s i (s.setErr c)
  | parseFailsWith (i : Instr) (parse : isParse i = true) (c : ResultCode) (may : mayReport i c = true)
    (code : c = .response ∨ ∃ st, st ≠ 0#8 ∧ c = .btldr st) (st : Byte) : Effect s i ((s.setStatus st).setErr c)
  | pdefault : Effect s .pdefault ((s.setStatus 0#8).setErr .ok)
  | pcustom (st : Byte) (d : Half) : Effect s (.pcustom st d) ((s.setStatus st).setErr .ok)
  | penter (a : Word) (b : Byte) (c : BitVec 24) :
    Effect s .penter (State.setErr .ok { s.setStatus 0#8 with siid := a, sirev := b, blver := c })
  | pvchk (v : Bool) : Effect s .pvchk (State.setErr .ok { s.setStatus 0#8 with ckvalid := v })
  | ptry (st : Byte) : Effect s .ptry ((s.setStatus st).setErr .ok)
  | rreadRefused (n : Half) : Effect s (.rread n) (s.setErr .length)
  | rread (n : Half) (fits : s.fits n) (w : List Byte) (t : Transport) (len : w.length = n.toNat) :
    Effect s (.rread n) (State.setErr .ok (({ s with pkt := pktAfter w }.setFrame
      (s.fb.writeBytes s.flen.toNat w) (s.flen.toNat + n.toNat)).setTransport t))
  | rreadComm (n : Half) (fits : s.fits n) (e : Word) (t : Transport) :
    Effect s (.rread n) (State.setErr .comm (({ s with terr := e }.loseWindow s.flen.toNat n.toNat).setTransport t))
  | rreadTimeout (n : Half) (fits : s.fits n) (t : Transport) :
    Effect s (.rread n) (State.setErr .timeout ((s.loseWindow s.flen.toNat n.toNat).setTransport t))
  | rreadWaits (n : Half) (fits : s.fits n) (r : Reading) (t : Transport)
    (legal : r.legal s.config.filler s.pkt n.toNat) (last : t.reads.getLast? = some r.count) :
    Effect s (.rread n) ((s.setWaiting (some r)).setTransport t)

/-- What `withSelected` can do: it hands the selected bytes on, or a fill count past its buffer's end faults. -/
theorem withSelected_cases (src : Src) (s : State) (k : List Byte → Outcome) :
    withSelected src s k = k (match src with | .pb => payload s | .fb => frameBytes s) ∨
    (withSelected src s k = .fault .payloadAddress ∧ pbufSize < s.plen.toNat) ∨
    (withSelected src s k = .fault .frameAddress ∧ fbufSize < s.flen.toNat) := by
  cases src <;> simp only [withSelected] <;> split <;> simp <;> omega

/-- A fault names a byte past the end of its buffer (R63): it needs a fill count that breaks R28 or R29. -/
def badCounts (s : State) : Prop := pbufSize < s.plen.toNat ∨ fbufSize < s.flen.toNat

/-- How a command ends: in a next state of `Effect`, or in a fault that `badCounts` explains. -/
def Ends (s : State) (i : Instr) (o : Outcome) : Prop :=
  (∃ t, o = .next t ∧ Effect s i t) ∨ (∃ f, o = .fault f ∧ badCounts s)

theorem Ends.complete {s t : State} {i : Instr} (h : Effect s i (t.setErr .ok)) : Ends s i (complete t) :=
  .inl ⟨_, rfl, h⟩

theorem Ends.raise {s t : State} {i : Instr} {c : ResultCode} (h : Effect s i (t.setErr c)) : Ends s i (raise c t) :=
  .inl ⟨_, rfl, h⟩

theorem Ends.withSelected {s : State} {i : Instr} {src : Src} {k : List Byte → Outcome}
    (h : ∀ bytes, Ends s i (k bytes)) : Ends s i (withSelected src s k) := by
  rcases withSelected_cases src s k with e | ⟨e, b⟩ | ⟨e, b⟩
  · rw [e]
    exact h _
  · exact .inr ⟨_, e, .inl b⟩
  · exact .inr ⟨_, e, .inr b⟩

theorem Ends.checked {s : State} {i : Instr} {d : Half} {e : Byte} {k : State → State} (parse : isParse i = true)
    (length : mayReport i .length = true) (data : mayReport i .data = true)
    (btldr : ∀ st, st ≠ 0#8 → mayReport i (.btldr st) = true) (response : e ≠ 0#8 → mayReport i .response = true)
    (pass : Effect s i ((k (s.setStatus e)).setErr .ok)) : Ends s i (checked d e s k) := by
  rcases checked_cases d e s k with h | ⟨c, hc, h⟩ | ⟨st, hst, h⟩ | ⟨he, h⟩ | ⟨h, b, -⟩ <;> rw [h]
  · exact .complete pass
  · rcases hc with rfl | rfl
    · exact .raise (.parseFails i parse _ length (.inl rfl))
    · exact .raise (.parseFails i parse _ data (.inr (.inl rfl)))
  · exact .raise (.parseFailsWith i parse _ (btldr st hst) (.inr ⟨st, hst, rfl⟩) st)
  · exact .raise (.parseFailsWith i parse _ (response he) (.inl rfl) 0#8)
  · exact .inr ⟨_, rfl, .inr b⟩

theorem ends_builder {i : Instr} (hi : isBuilder i = true) (s : State) : Ends s i (exec i s) := by
  rcases builder_cases hi s with ⟨e, may⟩ | ⟨id, p, e, why⟩ <;> rw [e]
  · exact .raise (.tooLong i hi (.inl may))
  · by_cases h : p.length ≤ maxPayload
    · exact .inl ⟨_, emit_eq_next.2 (.inr ⟨h, rfl⟩), .built i hi id p h⟩
    · exact .inl ⟨_, emit_eq_next.2 (.inl ⟨Nat.not_le.1 h, rfl⟩), .tooLong i hi (why.resolve_left h)⟩

theorem State.fits.pos {s : State} {n : Half} (h : s.fits n) : 0 < n.toNat :=
  Nat.pos_of_ne_zero fun e => h.1 (BitVec.eq_of_toNat_eq e)

/-- How an RREAD that fits ends, at its start or when it goes on: it completes, fails or waits. -/
theorem ends_finishRead {n : Half} {s : State} (fits : s.fits n) {t : Transport} {shape : List Nat → Prop}
    {r : ReadEnd × Transport} (spec : ReadSpec s.config.filler s.pkt n.toNat t shape r) :
    ∃ u, finishRead n.toNat s r = .next u ∧ Effect s (.rread n) u := by
  obtain ⟨r, t'⟩ := r
  cases r with
  | window w => exact ⟨_, rfl, .rread n fits w t' spec.1⟩
  | comm e => exact ⟨_, rfl, .rreadComm n fits e t'⟩
  | timeout => exact ⟨_, rfl, .rreadTimeout n fits t'⟩
  | unanswered r => exact ⟨_, rfl, .rreadWaits n fits r t' spec.1.1 spec.1.2⟩

theorem ends_rread (n : Half) (s : State) : Ends s (.rread n) (execRread n s) := by
  unfold execRread
  split_ifs with h0 h1
  · exact .raise (.rreadRefused n)
  · exact .raise (.rreadRefused n)
  · have fits : s.fits n := ⟨h0, Nat.not_lt.1 h1⟩
    exact .inl (ends_finishRead fits (resync_spec _ _ fits.pos _))

/-- A waiting RREAD goes on as an RREAD that is under way no longer: every effect it can have is one of RREAD. -/
theorem resumeRread_effect {n : Half} {r : Reading} {s : State} (fits : s.fits n)
    (legal : r.legal s.config.filler s.pkt n.toNat) (last : s.transport.reads.getLast? = some r.count) :
    ∃ u, resumeRread r s = .next u ∧ Effect (s.setWaiting none) (.rread n) u := by
  have size := Reading.legal_size legal
  have fit : ¬ fbufSize < s.flen.toNat + r.size := by
    rw [size]
    exact Nat.not_lt.2 fits.2
  rw [resumeRread, if_neg fit, size]
  exact ends_finishRead (s := s.setWaiting none) fits (goOn_spec fits.pos legal last)

/-- Everything a command can do. -/
theorem exec_ends (i : Instr) (s : State) : Ends s i (exec i s) := by
  cases i with
  | setmode m => exact .complete (.setmode m)
  | clrpb => exact .complete .clrpb
  | clrfb => exact .complete .clrfb
  | putpb b =>
    simp only [exec, execPutpb]
    split_ifs with h h'
    · exact .raise (.putpbFull b)
    · exact .complete (.putpb b h')
    · exact .inr ⟨_, rfl, .inl (by omega)⟩
  | putfb b =>
    simp only [exec, execPutfb]
    split_ifs with h h'
    · exact .raise (.putfbFull b)
    · exact .complete (.putfb b h')
    · exact .inr ⟨_, rfl, .inr (by omega)⟩
  | getfb h =>
    simp only [exec, execGetfb]
    split_ifs with h1 h2
    · exact .raise (.getfbBeyond h)
    · exact .complete (.getfb h (Nat.not_le.1 h1))
    · exact .inr ⟨_, rfl, .inr (by omega)⟩
  | sum16 src =>
    rw [exec, execSum16]
    exact .withSelected fun bytes => .complete (.sum16 src _)
  | crc16 src =>
    rw [exec, execCrc16]
    exact .withSelected fun bytes => .complete (.crc16 src _)
  | csum16 src =>
    rw [exec, execCsum16]
    exact .withSelected fun bytes => .complete (.csum16 src _)
  | crc32c src =>
    rw [exec, execCrc32c]
    exact .withSelected fun bytes => .complete (.crc32c src _)
  | pdefault =>
    rw [exec, execPdefault]
    exact .checked rfl rfl rfl (fun st h => by simp [mayReport, h]) (fun h => absurd rfl h) .pdefault
  | pcustom st d =>
    rw [exec, execPcustom]
    exact .checked rfl rfl rfl (fun st h => by simp [mayReport, h]) (fun h => by simp [mayReport, h]) (.pcustom st d)
  | penter =>
    rw [exec, execPenter]
    exact .checked rfl rfl rfl (fun st h => by simp [mayReport, h]) (fun h => absurd rfl h) (.penter _ _ _)
  | pvchk =>
    rw [exec, execPvchk]
    exact .checked rfl rfl rfl (fun st h => by simp [mayReport, h]) (fun h => absurd rfl h) (.pvchk _)
  | ptry =>
    rcases execPtry_cases s with h | h | ⟨h, b⟩ <;> simp only [exec, h]
    · exact .complete (.ptry _)
    · exact .raise (.parseFails .ptry rfl _ rfl (.inr (.inr rfl)))
    · exact .inr ⟨_, rfl, .inr b⟩
  | rread n => exact ends_rread n s
  | _ => exact ends_builder rfl s

theorem exec_effect {i : Instr} {s t : State} (h : exec i s = .next t) : Effect s i t := by
  rcases exec_ends i s with ⟨t', e, eff⟩ | ⟨f, e, -⟩
  · rw [h] at e
    cases e
    exact eff
  · rw [h] at e
    cases e

theorem exec_fault {i : Instr} {s : State} {f : Fault} (h : exec i s = .fault f) : badCounts s := by
  rcases exec_ends i s with ⟨t, e, -⟩ | ⟨f', -, b⟩
  · rw [h] at e
    cases e
  · exact b

theorem exec_ne_refused {i : Instr} {s : State} {r : Refusal} : exec i s ≠ .refused r := by
  intro h
  rcases exec_ends i s with ⟨t, e, -⟩ | ⟨f, e, -⟩ <;> · rw [h] at e; cases e

end Sys2Proof.Machine
end

