-- ==== Sys2Proof/Laws/PerInstr.lean ====
section
/-! SUPPORT. What holds of every command as syntax, one lemma per constructor: its encoding sets no bit outside the
bits it uses (spec 30_encoding.md R82). -/

namespace Sys2Proof.Laws.UsedBits

/-- The encoding lies inside the used bits. -/
def Statement (i : Instr) : Prop := encode i &&& i.usedBits = encode i

/-- It is enough to look at the operand fields, since the OPC field is used whole. -/
theorem of_fields {i : Instr} (hb : i.bField &&& i.bMask = i.bField) (hh : i.hField &&& i.hMask = i.hField) :
    Statement i := by
  have ho : i.opcode &&& 0xFF#8 = i.opcode := BitVec.and_allOnes
  unfold Statement encode Instr.usedBits
  rw [and_packWord]
  simp only [fieldOPC_packWord, fieldB_packWord, fieldH_packWord, ho, hb, hh]

/-- A field used whole. -/
theorem whole_byte (b : Byte) : b &&& 0xFF#8 = b := BitVec.and_allOnes

theorem whole_half (h : Half) : h &&& 0xFFFF#16 = h := BitVec.and_allOnes

/-- A field not used at all. -/
theorem noField {n : Nat} {x y : BitVec n} (hx : x = 0#n) (hy : y = 0#n) : x &&& y = x := by
  rw [hx, hy, BitVec.and_self]

theorem setmode (m : ChecksumMode) : Statement (.setmode m) := of_fields (by cases m <;> rfl) (noField rfl rfl)
theorem clrpb : Statement .clrpb := of_fields rfl rfl
theorem putpb (b : Byte) : Statement (.putpb b) := of_fields (whole_byte b) (noField rfl rfl)
theorem clrfb : Statement .clrfb := of_fields rfl rfl
theorem putfb (b : Byte) : Statement (.putfb b) := of_fields (whole_byte b) (noField rfl rfl)
theorem getfb (i : Half) : Statement (.getfb i) := of_fields (noField rfl rfl) (whole_half i)
theorem sum16 (src : Src) : Statement (.sum16 src) := of_fields (by cases src <;> rfl) (noField rfl rfl)
theorem crc16 (src : Src) : Statement (.crc16 src) := of_fields (by cases src <;> rfl) (noField rfl rfl)
theorem csum16 (src : Src) : Statement (.csum16 src) := of_fields (by cases src <;> rfl) (noField rfl rfl)
theorem crc32c (src : Src) : Statement (.crc32c src) := of_fields (by cases src <;> rfl) (noField rfl rfl)
theorem build (id : Byte) : Statement (.build id) := of_fields (whole_byte id) (noField rfl rfl)
theorem benter : Statement .benter := of_fields rfl rfl
theorem bexit : Statement .bexit := of_fields rfl rfl
theorem bsend : Statement .bsend := of_fields rfl rfl
theorem bsendnr : Statement .bsendnr := of_fields rfl rfl
theorem bprog : Statement .bprog := of_fields rfl rfl
theorem bverify : Statement .bverify := of_fields rfl rfl
theorem berase : Statement .berase := of_fields rfl rfl
theorem bvchk (app : Byte) : Statement (.bvchk app) := of_fields (whole_byte app) (noField rfl rfl)
theorem bmeta (app : Byte) : Statement (.bmeta app) := of_fields (whole_byte app) (noField rfl rfl)
theorem beiv : Statement .beiv := of_fields rfl rfl
theorem pdefault : Statement .pdefault := of_fields rfl rfl
theorem pcustom (status : Byte) (len : Half) : Statement (.pcustom status len) :=
  of_fields (whole_byte status) (whole_half len)
theorem penter : Statement .penter := of_fields rfl rfl
theorem pvchk : Statement .pvchk := of_fields rfl rfl
theorem ptry : Statement .ptry := of_fields rfl rfl
theorem rread (size : Half) : Statement (.rread size) := of_fields (noField rfl rfl) (whole_half size)

end Sys2Proof.Laws.UsedBits
end

