-- ==== Sys2Proof/Laws/Step.lean ====
section
/-! SUPPORT. Everything one step can do, said once. -/

namespace Sys2Proof.Machine

/-- A command word that decodes runs its command; any other reports CMDERR (R93). -/
theorem runCommand_cases (w : Word) (s : State) :
    (∃ i, decode w = .ok i ∧ runCommand w s = exec i s) ∨ runCommand w s = raise .cmderr s := by
  unfold runCommand
  cases decode w with
  | ok i => exact .inl ⟨i, rfl, rfl⟩
  | error e => exact .inr rfl

theorem runCommand_ne_refused {w : Word} {s : State} {r : Refusal} : runCommand w s ≠ .refused r := by
  rcases runCommand_cases w s with ⟨i, -, e⟩ | e <;> rw [e]
  · exact exec_ne_refused
  · simp

/-- A write to CMD runs the word; any other write stores at most ARG0 or ARG1 (R36 to R38). -/
theorem regWrite_cases (n : Byte) (v : Word) (s : State) :
    (n = 0x00#8 ∧ regWrite n v s = runCommand v (s.setCmd v)) ∨
    ∃ a0 a1, regWrite n v s = .next { s with arg0 := a0, arg1 := a1 } := by
  unfold regWrite
  split
  · exact .inl ⟨BitVec.eq_of_toNat_eq (by assumption), rfl⟩
  · exact .inr ⟨v, s.arg1, rfl⟩
  · exact .inr ⟨s.arg0, v, rfl⟩
  · exact .inr ⟨s.arg0, s.arg1, rfl⟩

/-- Everything a step can do: it refuses the launch, the RREAD that waits goes on, it waits for the host, or it makes the
host's next access. -/
theorem step_cases (s : State) :
    (∃ r, launchRefusal s = some r ∧ step s = .refused r) ∨
    (s.admitted = true ∧ ∃ r, s.waiting = some r ∧ step s = resumeRread r s) ∨
    (s.admitted = true ∧ s.waiting = none ∧ nextAccess s = none ∧ step s = .next s) ∨
    (s.admitted = true ∧ s.waiting = none ∧ ∃ a, nextAccess s = some a ∧ step s = access a s.advance) := by
  unfold step
  cases hl : launchRefusal s with
  | some r => exact .inl ⟨r, rfl, rfl⟩
  | none =>
    have had := launchRefusal_eq_none.1 hl
    cases hw : s.waiting with
    | some r => exact .inr (.inl ⟨had, r, rfl, rfl⟩)
    | none =>
      cases ha : nextAccess s with
      | none => exact .inr (.inr (.inl ⟨had, rfl, rfl, rfl⟩))
      | some a => exact .inr (.inr (.inr ⟨had, rfl, a, rfl, rfl⟩))

/-- The step of a ready machine is the host's next access. -/
theorem step_of_ready {s : State} (h : s.ready) {a : Access} (ha : nextAccess s = some a) :
    step s = access a s.advance := by
  simp [step, launchRefusal_eq_none.2 h.1, h.2, ha]

/-- A waiting RREAD goes on. -/
theorem step_of_waiting {s : State} (had : s.admitted = true) {r : Reading} (hw : s.waiting = some r) :
    step s = resumeRread r s := by
  simp [step, launchRefusal_eq_none.2 had, hw]

end Sys2Proof.Machine
end

