-- ==== Sys2Proof/Tests/Slice0.lean ====
section
/-! SUPPORT. The model's own tests: what the launch check refuses, words written out from the opcode map, at most two
small one-step tests per command with the results 95_test_vectors.md gives, and a witness of every statement's
hypotheses. -/

namespace Sys2Proof.Tests

open Sys2Proof.Machine

/-! ### Small states -/

/-- FB holds `bytes`, from the reset state. -/
def framed (bytes : List Byte) : State :=
  { State.reset with fb := Memory.cells 0 bytes, flen := BitVec.ofNat 13 bytes.length }

/-- PB holds `bytes`, from the reset state. -/
def loaded (bytes : List Byte) : State :=
  { State.reset with pb := Memory.cells 0 bytes, plen := BitVec.ofNat 13 bytes.length }

/-- The marked registers of 95_test_vectors.md's conventions. -/
def marked (s : State) : State :=
  { s with status := 0xEE#8, siid := 0xDEADBEEF#32, sirev := 0xEE#8, blver := 0xEEEEEE#24 }

/-- The transport will answer these bytes, and then `more`. -/
def streaming (bytes : List Byte) (more : List TEvent) (s : State) : State :=
  { s with transport := ⟨bytes.map TEvent.byte ++ more, []⟩ }

/-- The host is about to make this access. -/
def hosting (a : Access) (s : State) : State := { s with host := ⟨[a], 0, []⟩ }

/-- A field of the next state; nothing after a stop. -/
def after {α : Type} (o : Outcome) (field : State → α) : Option α :=
  match o with
  | .next t => some (field t)
  | .fault _ | .refused _ => none

/-- What FB holds up to FLEN. -/
def valid (s : State) : Half × List Byte := (s.err, frameBytes s)

/-! ### The launch check -/

theorem test_wellFormed_refuses_filler_start : Config.wellFormed { Config.default with filler := 0x01#8 } = false := by
  decide

theorem test_wellFormed_admits_other_filler : Config.wellFormed { Config.default with filler := 0x17#8 } = true := by
  decide

theorem test_oneHost_refuses_a_second : oneHost 1 = false ∧ oneHost 0 = true := by decide

/-- Every value a command's operand types hold is one the encoding admits, so no command is ill formed; what is ill
formed is a word (30_encoding.md R93). -/
theorem test_wellFormed_commands : (Instr.pcustom 0xFF#8 0xFFFF#16).wellFormed = true ∧
    (Instr.rread 0#16).wellFormed = true := by decide

theorem test_step_refuses_filler_start :
    step { State.reset with config := { Config.default with filler := 0x01#8 } } = .refused .fillerIsStart := rfl

theorem test_step_refuses_a_second_host : step { State.reset with extraHosts := 1 } = .refused .secondHost := rfl

/-! ### Decoding, each word written out as H (16 bits), B (8 bits), OPC (8 bits) from 30_encoding.md R92 -/

theorem test_decode_setmode : decode 0b0000000000000000_00000001_00000001#32 = .ok (.setmode .crc16Ccitt) ∧
    decode 0b0000000000000000_00000010_00000001#32 = .ok (.setmode .sumComplement) := by decide
theorem test_decode_clrpb : decode 0b1010101111001101_00000000_00000010#32 = .ok .clrpb := by decide
theorem test_decode_putpb : decode 0b0000000000000000_00110001_00000011#32 = .ok (.putpb 0x31#8) := by decide
theorem test_decode_clrfb : decode 0b0000000000000000_00000000_00000100#32 = .ok .clrfb := by decide
theorem test_decode_putfb : decode 0b0000000000000000_01110111_00000101#32 = .ok (.putfb 0x77#8) := by decide
theorem test_decode_getfb : decode 0b0001000000000110_00000000_00000110#32 = .ok (.getfb 4102#16) := by decide
theorem test_decode_sum16 : decode 0b0000000000000000_11111110_00010000#32 = .ok (.sum16 .pb) := by decide
theorem test_decode_crc16 : decode 0b0000000000000000_00000001_00010001#32 = .ok (.crc16 .fb) := by decide
theorem test_decode_csum16 : decode 0b0000000000000000_00000001_00010010#32 = .ok (.csum16 .fb) := by decide
theorem test_decode_crc32c : decode 0b0000000000000000_11111110_00010011#32 = .ok (.crc32c .pb) := by decide
theorem test_decode_build : decode 0b0000000000000000_10011001_00100000#32 = .ok (.build 0x99#8) := by decide
theorem test_decode_benter : decode 0b0000000000000000_00000000_00100001#32 = .ok .benter := by decide
theorem test_decode_bexit : decode 0b1111111111111111_00000000_00100010#32 = .ok .bexit := by decide
theorem test_decode_bsend : decode 0b0000000000000000_00000000_00100011#32 = .ok .bsend := by decide
theorem test_decode_bsendnr : decode 0b0000000000000000_00000000_00100100#32 = .ok .bsendnr := by decide
theorem test_decode_bprog : decode 0b0000000000000000_00000000_00100101#32 = .ok .bprog := by decide
theorem test_decode_bverify : decode 0b0000000000000000_00000000_00100110#32 = .ok .bverify := by decide
theorem test_decode_berase : decode 0b0000000000000000_00000000_00100111#32 = .ok .berase := by decide
theorem test_decode_bvchk : decode 0b0000000000000000_00000001_00101000#32 = .ok (.bvchk 0x01#8) := by decide
theorem test_decode_bmeta : decode 0b0000000000000000_00000001_00101001#32 = .ok (.bmeta 0x01#8) := by decide
theorem test_decode_beiv : decode 0b0000000000000000_00000000_00101010#32 = .ok .beiv := by decide
theorem test_decode_pdefault : decode 0b0000000000000000_00000000_00110000#32 = .ok .pdefault := by decide
theorem test_decode_pcustom : decode 0b0000000000000010_00110111_00110001#32 = .ok (.pcustom 0x37#8 2#16) := by decide
theorem test_decode_penter : decode 0b0000000000000000_00000000_00110010#32 = .ok .penter := by decide
theorem test_decode_pvchk : decode 0b0000000000000000_00000000_00110011#32 = .ok .pvchk := by decide
theorem test_decode_ptry : decode 0b0000000000000000_00000000_00110100#32 = .ok .ptry := by decide
theorem test_decode_rread : decode 0b0000000000000111_00000000_01000000#32 = .ok (.rread 7#16) := by decide

/-- The reserved words of V-ENC-1 to V-ENC-7. -/
theorem test_decode_reserved :
    [0x00000000#32, 0x000000FF#32, 0x12345607#32, 0x00000014#32, 0x0000002B#32, 0x00000035#32, 0x00000041#32].all
      (fun w => decode w = .error (.reservedOpcode (w.extractLsb' 0 8))) = true := by decide

/-- V-ENC-11 the other way. -/
theorem test_encode_pcustom : encode (.pcustom 0x37#8 2#16) = 0x00023731#32 := by decide

theorem test_decodeTableWord : decodeTableWord 32 0x00070040 = some (.rread 7#16) ∧
    decodeTableWord 8 0x02 = some .clrpb ∧ decodeTableWord 32 0x12345607 = none := by decide

/-- The first instruction after reset: BEXIT with junk in B and H (V-BLD-10). -/
theorem test_withFetchWord : after (step (State.reset.withFetchWord 32 0xFFFF0022)) (fun t => (t.cmd, valid t))
    = some (0xFFFF0022#32, 0x0000#16, [0x01#8, 0x3B#8, 0x00#8, 0x00#8, 0xC4#8, 0xFF#8, 0x17#8]) := by decide +kernel

/-- V-ENC-3. -/
theorem test_reserved_word : after (step (State.reset.withFetchWord 32 0x12345607)) (fun t => (t.cmd, t.err))
    = some (0x12345607#32, 0x0005#16) := by decide +kernel

/-! ### The register port -/

/-- V-PORT-12 and V-MODE-5: writes to read-only registers change nothing, not even ERR. -/
theorem test_write_read_only :
    after (step (hosting (.write 0x08#8 5#32) { State.reset with err := 0x0003#16 })) (fun t => (t.flen, t.err))
      = some (0#13, 0x0003#16) ∧
    after (step (hosting (.write 0x05#8 1#32) State.reset)) (·.mode) = some .sumComplement := by decide

/-- V-PORT-13. -/
theorem test_read_reserved_number : after (step (hosting (.read 0x20#8) State.reset)) (·.host.received)
    = some [0#32] := by decide

theorem test_read_mode : after (step (hosting (.read 0x05#8) { State.reset with mode := .crc16Ccitt }))
    (·.host.received) = some [1#32] := by decide

theorem test_write_arg : after (step (hosting (.write 0x02#8 0xE3069283#32) State.reset)) (fun t => (t.arg0, t.arg1))
    = some (0#32, 0xE3069283#32) := by decide

/-! ### Mode and checksums -/

/-- "123456789". -/
def digits : List Byte := [0x31#8, 0x32#8, 0x33#8, 0x34#8, 0x35#8, 0x36#8, 0x37#8, 0x38#8, 0x39#8]

/-- The frame BEXIT leaves in MODE 0 (V-CHKCMD-5). -/
def exitFrame : List Byte := [0x01#8, 0x3B#8, 0x00#8, 0x00#8, 0xC4#8, 0xFF#8, 0x17#8]

/-- V-MODE-1, after a failing command (V-ERR-1). -/
theorem test_setmode : after (exec (.setmode .crc16Ccitt) { State.reset with err := 0x0011#16 })
    (fun t => (t.mode, t.err)) = some (.crc16Ccitt, 0x0000#16) := by decide

/-- V-CHKCMD-1 and V-CHKCMD-5. -/
theorem test_sum16 : after (exec (.sum16 .pb) (loaded digits)) (·.chk16) = some 0xFE23#16 ∧
    after (exec (.sum16 .fb) (framed exitFrame)) (·.chk16) = some 0xFDEA#16 := by decide +kernel

/-- V-CHKCMD-2 and V-CHKCMD-6. -/
theorem test_crc16 : after (exec (.crc16 .pb) (loaded digits)) (·.chk16) = some 0x6E90#16 ∧
    after (exec (.crc16 .fb) (framed exitFrame)) (·.chk16) = some 0x550B#16 := by decide +kernel

/-- V-CHKCMD-7 and V-CHKCMD-8. -/
theorem test_csum16 : after (exec (.csum16 .fb) (framed exitFrame)) (·.chk16) = some 0xFDEA#16 ∧
    after (exec (.csum16 .fb) { framed exitFrame with mode := .crc16Ccitt }) (·.chk16) = some 0x550B#16 := by
  decide +kernel

/-- V-CHKCMD-3 and V-CHKCMD-9. -/
theorem test_crc32c : after (exec (.crc32c .pb) (loaded digits)) (fun t => (t.crc32, t.chk16))
      = some (0xE3069283#32, 0#16) ∧
    after (exec (.crc32c .fb) (framed exitFrame)) (·.crc32) = some 0x77946754#32 := by decide +kernel

/-! ### Buffer port -/

/-- V-PORT-1: the bytes stay. -/
theorem test_clrpb : after (exec .clrpb (loaded digits)) (fun t => (t.plen, t.pb.read 0)) = some (0#13, 0x31#8) := by
  decide

/-- V-PORT-2 and V-PORT-4. -/
theorem test_putpb : after (exec (.putpb 0x31#8) State.reset) (fun t => (t.plen, t.pb)) = some (1#13, [(0, 0x31#8)]) ∧
    after (exec (.putpb 0x77#8) { State.reset with plen := 4096#13 }) (fun t => (t.err, t.plen, t.pb))
      = some (0x0003#16, 4096#13, []) := by decide

/-- V-PORT-11: CLRFB does not touch PKT. -/
theorem test_clrfb : after (exec .clrfb { State.reset with pkt := true, flen := 5#13 }) (fun t => (t.flen, t.pkt))
    = some (0#13, true) := by decide

/-- V-PORT-6, and the last byte that fits (V-PORT-5). -/
theorem test_putfb :
    after (exec (.putfb 0x77#8) { State.reset with flen := 4103#13 }) (fun t => (t.err, t.flen))
      = some (0x0003#16, 4103#13) ∧
    after (exec (.putfb 0x77#8) { State.reset with flen := 4102#13 }) (fun t => (t.flen, t.fb))
      = some (4103#13, [(4102, 0x77#8)]) := by decide

/-- V-PORT-9 and V-PORT-10. -/
theorem test_getfb : after (exec (.getfb 4#16) (framed exitFrame)) (·.rdata) = some 0xC4#8 ∧
    after (exec (.getfb 0#16) { State.reset with rdata := 0xC4#8 }) (fun t => (t.err, t.rdata))
      = some (0x0003#16, 0xC4#8) := by decide

/-! ### Builders (V-BLD) -/

/-- V-BLD-2 in both modes. -/
theorem test_build : after (exec (.build 0x99#8) (loaded [0x5A#8])) valid
      = some (0x0000#16, [0x01#8, 0x99#8, 0x01#8, 0x00#8, 0x5A#8, 0x0B#8, 0xFF#8, 0x17#8]) ∧
    after (exec (.build 0x99#8) { loaded [0x5A#8] with mode := .crc16Ccitt }) valid
      = some (0x0000#16, [0x01#8, 0x99#8, 0x01#8, 0x00#8, 0x5A#8, 0x74#8, 0x9C#8, 0x17#8]) := by decide +kernel

/-- V-BLD-8: the high half of ARG1 is ignored. -/
theorem test_benter_short : after (exec .benter { State.reset with arg0 := 0x01020304#32, arg1 := 0xFFFF0000#32 }) valid
    = some (0x0000#16, [0x01#8, 0x38#8, 0x04#8, 0x00#8, 0x04#8, 0x03#8, 0x02#8, 0x01#8, 0xB9#8, 0xFF#8, 0x17#8]) := by
  decide +kernel

/-- V-BLD-6: the six-byte product id. -/
theorem test_benter_long : after (exec .benter { State.reset with arg0 := 0x01020304#32, arg1 := 0x0000A0B0#32 }) valid
    = some (0x0000#16, [0x01#8, 0x38#8, 0x06#8, 0x00#8, 0x04#8, 0x03#8, 0x02#8, 0x01#8, 0xB0#8, 0xA0#8, 0x67#8, 0xFE#8,
        0x17#8]) := by decide +kernel

/-- V-BLD-9 in MODE 1. -/
theorem test_bexit : after (exec .bexit { State.reset with mode := .crc16Ccitt }) valid
    = some (0x0000#16, [0x01#8, 0x3B#8, 0x00#8, 0x00#8, 0x4F#8, 0x6D#8, 0x17#8]) := by decide +kernel

/-- V-BLD-11. -/
theorem test_bsend : after (exec .bsend (loaded [0xAA#8, 0x55#8])) valid
    = some (0x0000#16, [0x01#8, 0x37#8, 0x02#8, 0x00#8, 0xAA#8, 0x55#8, 0xC7#8, 0xFE#8, 0x17#8]) := by decide +kernel

/-- V-BLD-13. -/
theorem test_bsendnr : after (exec .bsendnr (loaded [0xAA#8, 0x55#8])) valid
    = some (0x0000#16, [0x01#8, 0x47#8, 0x02#8, 0x00#8, 0xAA#8, 0x55#8, 0xB7#8, 0xFE#8, 0x17#8]) := by decide +kernel

/-- V-BLD-14 and V-BLD-25. -/
theorem test_bprog :
    after (exec .bprog { loaded digits with arg0 := 0x10000000#32, arg1 := 0xE3069283#32 }) valid
      = some (0x0000#16, [0x01#8, 0x49#8, 0x11#8, 0x00#8, 0x00#8, 0x00#8, 0x00#8, 0x10#8, 0x83#8, 0x92#8, 0x06#8, 0xE3#8]
          ++ digits ++ [0xBA#8, 0xFB#8, 0x17#8]) ∧
    after (exec .bprog { State.reset with plen := 4089#13 }) (fun t => (t.err, t.flen)) = some (0x0003#16, 0#13) := by
  decide +kernel

/-- V-BLD-16. -/
theorem test_bverify :
    after (exec .bverify { loaded digits with arg0 := 0x10000000#32, arg1 := 0xE3069283#32 }) valid
      = some (0x0000#16, [0x01#8, 0x4A#8, 0x11#8, 0x00#8, 0x00#8, 0x00#8, 0x00#8, 0x10#8, 0x83#8, 0x92#8, 0x06#8, 0xE3#8]
          ++ digits ++ [0xB9#8, 0xFB#8, 0x17#8]) := by decide +kernel

/-- V-BLD-17. -/
theorem test_berase : after (exec .berase { State.reset with arg0 := 0x10000200#32 }) valid
    = some (0x0000#16, [0x01#8, 0x44#8, 0x04#8, 0x00#8, 0x00#8, 0x02#8, 0x00#8, 0x10#8, 0xA5#8, 0xFF#8, 0x17#8]) := by
  decide +kernel

/-- V-BLD-18. -/
theorem test_bvchk : after (exec (.bvchk 0x01#8) State.reset) valid
    = some (0x0000#16, [0x01#8, 0x31#8, 0x01#8, 0x00#8, 0x01#8, 0xCC#8, 0xFF#8, 0x17#8]) := by decide +kernel

/-- V-BLD-19. -/
theorem test_bmeta :
    after (exec (.bmeta 0x01#8) { State.reset with arg0 := 0x10000000#32, arg1 := 0x00008000#32 }) valid
      = some (0x0000#16, [0x01#8, 0x4C#8, 0x09#8, 0x00#8, 0x01#8, 0x00#8, 0x00#8, 0x00#8, 0x10#8, 0x00#8, 0x80#8, 0x00#8,
          0x00#8, 0x19#8, 0xFF#8, 0x17#8]) := by decide +kernel

/-- V-BLD-20 and V-BLD-23. -/
theorem test_beiv : after (exec .beiv State.reset) valid
      = some (0x0000#16, [0x01#8, 0x4D#8, 0x00#8, 0x00#8, 0xB2#8, 0xFF#8, 0x17#8]) ∧
    after (exec .beiv { State.reset with plen := 5#13 }) (fun t => (t.err, t.flen)) = some (0x0003#16, 0#13) := by
  decide +kernel

/-! ### Parses (V-PRS, V-PTRY), from the marked registers -/

/-- V-PRS-2 and V-PRS-13. -/
theorem test_pdefault :
    after (exec .pdefault (marked (framed [0x01#8, 0x03#8, 0x00#8, 0x00#8, 0xFC#8, 0xFF#8, 0x17#8])))
      (fun t => (t.err, t.status)) = some (0x4003#16, 0x03#8) ∧
    after (exec .pdefault { marked (framed [0x01#8, 0x00#8, 0x00#8, 0x00#8, 0x00#8, 0x00#8, 0x17#8]) with
      config := { Config.default with parseChecksChecksum := true } }) (fun t => (t.err, t.status))
      = some (0x0004#16, 0xEE#8) := by decide +kernel

/-- V-PRS-10: the status is tested before START. -/
theorem test_pdefault_order :
    after (exec .pdefault (marked (framed [0x02#8, 0x03#8, 0x00#8, 0x00#8, 0xFC#8, 0xFF#8, 0x17#8])))
      (fun t => (t.err, t.status)) = some (0x4003#16, 0x03#8) := by decide +kernel

/-- V-PRS-18 and V-PRS-25. -/
theorem test_pcustom :
    after (exec (.pcustom 0x5A#8 0#16) (marked (framed [0x01#8, 0x00#8, 0x00#8, 0x00#8, 0xFF#8, 0xFF#8, 0x17#8])))
      (fun t => (t.err, t.status)) = some (0x0010#16, 0x00#8) ∧
    after (exec (.pcustom 0x00#8 0xFFFF#16) (marked { State.reset with flen := 6#13 })) (fun t => (t.err, t.status))
      = some (0x0003#16, 0xEE#8) := by decide +kernel

/-- The response of V-PRS-26. -/
def enterResponse : List Byte :=
  [0x01#8, 0x00#8, 0x08#8, 0x00#8, 0x69#8, 0x10#8, 0x8A#8, 0x1E#8, 0x11#8, 0x01#8, 0x02#8, 0x03#8, 0xBF#8, 0xFE#8, 0x17#8]

/-- V-PRS-26. -/
theorem test_penter : after (exec .penter (marked (framed enterResponse)))
    (fun t => (t.err, t.status, t.siid, t.sirev, t.blver))
    = some (0x0000#16, 0x00#8, 0x1E8A1069#32, 0x11#8, 0x030201#24) := by decide +kernel

/-- V-PRS-27. -/
theorem test_penter_short : after (exec .penter (marked (framed (enterResponse.take 14))))
    (fun t => (t.err, t.status, t.siid, t.sirev, t.blver))
    = some (0x0003#16, 0xEE#8, 0xDEADBEEF#32, 0xEE#8, 0xEEEEEE#24) := by decide +kernel

/-- V-PRS-32 and V-PRS-33. -/
theorem test_pvchk :
    after (exec .pvchk (marked (framed [0x01#8, 0x00#8, 0x01#8, 0x00#8, 0xFF#8, 0xFF#8, 0xFE#8, 0x17#8])))
      (fun t => (t.err, t.ckvalid)) = some (0x0000#16, true) ∧
    after (exec .pvchk (marked (framed [0x01#8, 0x08#8, 0x01#8, 0x00#8, 0x01#8, 0xF5#8, 0xFF#8, 0x17#8])))
      (fun t => (t.err, t.status, t.ckvalid)) = some (0x4008#16, 0x08#8, false) := by decide +kernel

/-- V-PTRY-4: the trailing byte is ignored. -/
theorem test_ptry :
    after (exec .ptry (marked (framed [0x01#8, 0x03#8, 0x00#8, 0x00#8, 0xFC#8, 0xFF#8, 0x17#8, 0xAA#8])))
      (fun t => (t.err, t.status)) = some (0x0000#16, 0x03#8) := by decide +kernel

/-- V-PTRY-5 and V-PTRY-8. -/
theorem test_ptry_unknown :
    after (exec .ptry (marked (framed [0x01#8, 0x00#8, 0x10#8, 0x00#8, 0xFF#8, 0xFF#8, 0x17#8])))
      (fun t => (t.err, t.status)) = some (0x000F#16, 0xEE#8) ∧
    after (exec .ptry (marked (framed [0x01#8, 0x00#8, 0x00#8, 0x00#8, 0xFE#8, 0xFF#8, 0x17#8])))
      (fun t => (t.err, t.status)) = some (0x000F#16, 0xEE#8) := by decide +kernel

/-! ### RREAD (V-RR) -/

/-- V-RR-2, V-RR-8 and V-RR-18: a shift and refill; a good byte on the second retry, with no tail read; a failure of the
tail read. -/
theorem test_rread :
    after (exec (.rread 7#16) (streaming
      [0xFF#8, 0xFF#8, 0x01#8, 0x00#8, 0x00#8, 0x00#8, 0xFF#8, 0xFF#8, 0x17#8] [] State.reset))
      (fun t => (valid t, t.pkt, t.transport))
      = some ((0x0000#16, [0x01#8, 0x00#8, 0x00#8, 0x00#8, 0xFF#8, 0xFF#8, 0x17#8]), false, ⟨[], [7, 2]⟩) ∧
    after (exec (.rread 1#16) (streaming [0xFF#8, 0xFF#8, 0x17#8] [] State.reset)) (fun t => (valid t, t.pkt, t.transport))
      = some ((0x0000#16, [0x17#8]), false, ⟨[], [1, 1, 1]⟩) ∧
    after (exec (.rread 7#16) (streaming (List.replicate 7 0xFF#8 ++ [0x01#8]) [.fail 8#32] State.reset))
      (fun t => (t.err, t.terr, t.flen, t.transport)) = some (0x2000#16, 8#32, 0#13, ⟨[], [7, 1, 6]⟩) := by
  decide +kernel

/-- V-RR-4 with its refill cut short: the block waits, the raw read's bytes are gone from the transport (20_memory.md
R70) and the refill has been issued (R69); the rest of the refill completes it. -/
theorem test_rread_waits :
    after (exec (.rread 7#16) (streaming (List.replicate 6 0xFF#8 ++ [0x01#8, 0x00#8]) [] State.reset))
      (fun t => (t.waiting, t.flen, t.transport))
      = some (some (.refill [0x01#8] 6), 0#13, ⟨[TEvent.byte 0x00#8], [7, 6]⟩) ∧
    after (step (State.deliver ([0x00#8, 0x00#8, 0xFF#8, 0xFF#8, 0x17#8].map TEvent.byte)
      { State.reset with waiting := some (.refill [0x01#8] 6), transport := ⟨[TEvent.byte 0x00#8], [7, 6]⟩ }))
      (fun t => (t.waiting, valid t, t.pkt, t.transport))
      = some (none, (0x0000#16, [0x01#8, 0x00#8, 0x00#8, 0x00#8, 0xFF#8, 0xFF#8, 0x17#8]), false, ⟨[], [7, 6]⟩) := by
  decide +kernel

/-! ### Witnesses: concrete states and operands that meet each statement's hypotheses, clause by clause -/

/-- A host about to write `w` to CMD, with the exit frame in FB. -/
def commanding (w : Word) : State := hosting (.write 0x00#8 w) (framed exitFrame)

/-- The reset state with these fill counts. -/
def counts (plen flen : Nat) : State :=
  { State.reset with plen := BitVec.ofNat 13 plen, flen := BitVec.ofNat 13 flen }

theorem witness_EncodedCommandsDecodeBack : (Instr.pcustom 0xFF#8 0xFFFF#16).wellFormed = true := rfl

theorem witness_ReservedWordsReportCmderr :
    ((commanding 0x00000041#32).ready ∧ nextAccess (commanding 0x00000041#32) = some (.write 0x00#8 0x00000041#32) ∧
      decode 0x00000041#32 = .error (.reservedOpcode 0x41#8)) ∧
    (0xFFFFFF20#32 : Word).extractLsb' 0 8 = 0x20#8 := ⟨⟨⟨rfl, rfl⟩, rfl, rfl⟩, by decide⟩

theorem witness_StepRunsTheDecodedCommand :
    (commanding 0xFFFF0022#32).ready ∧ nextAccess (commanding 0xFFFF0022#32) = some (.write 0x00#8 0xFFFF0022#32) ∧
    decode 0xFFFF0022#32 = .ok .bexit ∧ Instr.wellFormed .bexit = true := ⟨⟨rfl, rfl⟩, rfl, rfl, rfl⟩

theorem witness_RegisterWrites :
    ((hosting (.write 0x01#8 7#32) State.reset).ready ∧
      nextAccess (hosting (.write 0x01#8 7#32) State.reset) = some (.write 0x01#8 7#32)) ∧
    ((hosting (.write 0x02#8 7#32) State.reset).ready ∧
      nextAccess (hosting (.write 0x02#8 7#32) State.reset) = some (.write 0x02#8 7#32)) ∧
    ((hosting (.write 0x03#8 7#32) State.reset).ready ∧ 0x03 ≤ (0x03#8 : Byte).toNat ∧
      nextAccess (hosting (.write 0x03#8 7#32) State.reset) = some (.write 0x03#8 7#32)) ∧
    0x11 ≤ (0x11#8 : Byte).toNat ∧ (∃ t, exec .bexit (framed exitFrame) = .next t) :=
  ⟨⟨⟨rfl, rfl⟩, rfl⟩, ⟨⟨rfl, rfl⟩, rfl⟩, ⟨⟨rfl, rfl⟩, by decide, rfl⟩, by decide, _, rfl⟩

theorem witness_RegisterReads : (hosting (.read 0x10#8) (framed exitFrame)).ready ∧
    nextAccess (hosting (.read 0x10#8) (framed exitFrame)) = some (.read 0x10#8) := ⟨⟨rfl, rfl⟩, rfl⟩

/-- The state with FILLER = START. -/
def fillerIsStart : State := { State.reset with config := { Config.default with filler := 0x01#8 } }

theorem witness_RefusedLaunches :
    ({ fillerIsStart with extraHosts := 1 }.config.filler = 0x01#8 ∨ { fillerIsStart with extraHosts := 1 }.extraHosts ≠ 0) ∧
    (fillerIsStart.config.filler = 0x01#8 ∧ fillerIsStart.extraHosts = 0) ∧
    ({ State.reset with extraHosts := 1 }.config.filler ≠ 0x01#8 ∧ { State.reset with extraHosts := 1 }.extraHosts ≠ 0) ∧
    (framed exitFrame).admitted = true := by decide

theorem witness_BlockWaitsForTheHost : (framed exitFrame).ready ∧ nextAccess (framed exitFrame) = none :=
  ⟨⟨rfl, rfl⟩, rfl⟩

/-- A state that meets the invariant, with a frame in FB, a command to run and full fill counts. -/
theorem inv_commanding (w : Word) : (commanding w).Inv := by
  refine ⟨?_, ?_, ?_, ?_, ?_, nofun⟩ <;>
    (simp only [commanding, hosting, framed, exitFrame, State.reset]; decide)

/-- A state that waits in an RREAD 7 for the refill behind a good tail of one byte, and meets the invariant. -/
def waitingRefill : State :=
  { State.reset with
    cmd := 0x00070040#32
    waiting := some (.refill [0x01#8] 6)
    transport := ⟨[TEvent.byte 0x00#8], [7, 6]⟩ }

theorem inv_waitingRefill : waitingRefill.Inv := by
  refine ⟨by decide, by decide, by decide, by decide, by decide, ?_⟩
  rintro r ⟨⟩
  refine ⟨7#16, rfl, ?_, ?_, rfl⟩
  · unfold State.fits
    decide
  · simp only [Reading.legal]
    decide

theorem witness_EveryStepKeepsTheInvariant :
    ((commanding 0x00000022#32).Inv ∧ ∃ t, step (commanding 0x00000022#32) = .next t) ∧
    (waitingRefill.Inv ∧ ∃ t, step waitingRefill = .next t) := ⟨⟨inv_commanding _, _, rfl⟩, inv_waitingRefill, _, rfl⟩

theorem witness_NothingStopsAGoodState :
    ((commanding 0x00000022#32).Inv ∧ (commanding 0x00000022#32).admitted = true ∧
      isRread .bexit = false ∧ (commanding 0x00000022#32).waiting = none) ∧
    (waitingRefill.Inv ∧ waitingRefill.admitted = true) := ⟨⟨inv_commanding _, rfl, rfl, rfl⟩, inv_waitingRefill, rfl⟩

theorem witness_CommandsReportOnlyTheirCodes : (commanding 0#32).Inv ∧
    ∃ t, exec .pdefault (commanding 0#32) = .next t ∧ t.waiting = none := ⟨inv_commanding _, _, rfl, rfl⟩

theorem witness_ErrorTagBits : isResultCode 0x40FF#16 = true ∧ isResultCode 0x2000#16 = true ∧ (0xFF#8 : Byte) ≠ 0#8 := by
  decide

/-- A device status, a transport failure, and an error that writes nothing else. -/
theorem witness_ErrorsArePrecise :
    after (exec .pdefault (marked (framed exitFrame))) (fun t => (t.waiting, t.err, t.status))
      = some (none, 0x403B#16, 0x3B#8) ∧
    after (exec (.rread 7#16) (streaming [] [.fail 5#32] State.reset)) (fun t => (t.waiting, t.err, t.terr))
      = some (none, 0x2000#16, 5#32) ∧
    after (exec (.getfb 0#16) State.reset) (fun t => (t.waiting, t.err)) = some (none, 0x0003#16) := by decide +kernel

theorem witness_RegistersHaveOnlyTheirWriters : ∃ t, exec .penter (framed enterResponse) = .next t ∧
    t.siid ≠ (framed enterResponse).siid := ⟨_, rfl, by decide +kernel⟩

/-- Two states that differ in a hidden byte, in a step that goes on, one that faults and one that is refused. -/
theorem witness_HiddenBytesAreUnobservable :
    (commanding 0x00000022#32).sameValid { commanding 0x00000022#32 with pb := [(9, 0x55#8)] } ∧
    (∃ t, step (commanding 0x00000022#32) = .next t) ∧
    (hosting (.write 0x00#8 0x00000003#32) (counts 4097 0)).sameValid
      { hosting (.write 0x00#8 0x00000003#32) (counts 4097 0) with fb := [(0, 0x55#8)] } ∧
    step (hosting (.write 0x00#8 0x00000003#32) (counts 4097 0)) = .fault .payloadAddress ∧
    { State.reset with extraHosts := 1 }.sameValid { State.reset with extraHosts := 1, fb := [(0, 0x55#8)] } ∧
    step { State.reset with extraHosts := 1 } = .refused .secondHost := by
  refine ⟨⟨rfl, ?_, fun _ _ => rfl⟩, ⟨_, rfl⟩, ⟨rfl, fun _ _ => rfl, ?_⟩, by rfl, ⟨rfl, ?_, ?_⟩, rfl⟩ <;>
    simp [commanding, hosting, framed, counts, State.reset]

theorem witness_ErrorsAreNotSticky : State.reset.waiting = none ∧
    after (exec (.rread 1#16) State.reset) (·.waiting) = some (some (.raw 1)) ∧
    after (exec .pdefault State.reset) (·.waiting) = some none := by decide

theorem witness_CommandsAreIdempotent : isRread .bexit = false ∧ (∀ b, Instr.bexit ≠ .putpb b) ∧
    (∀ b, Instr.bexit ≠ .putfb b) ∧ ∃ t, exec .bexit (framed exitFrame) = .next t :=
  ⟨rfl, fun _ => nofun, fun _ => nofun, _, rfl⟩

theorem witness_SetmodeSetsTheMode : (0x00000301#32 : Word).extractLsb' 0 8 = 0x01#8 := by decide

theorem witness_ClearCommandsEmptyABuffer : (0xABCD0002#32 : Word).extractLsb' 0 8 = 0x02#8 ∧
    (0x00000004#32 : Word).extractLsb' 0 8 = 0x04#8 := by decide

theorem witness_PutpbAppends : (0xFFFF3103#32 : Word).extractLsb' 0 8 = 0x03#8 ∧ (counts 4096 0).plen.toNat = 4096 ∧
    (counts 4095 0).plen.toNat < 4096 := by decide

theorem witness_PutfbAppends : (0xFFFF7705#32 : Word).extractLsb' 0 8 = 0x05#8 ∧ (counts 0 4103).flen.toNat = 4103 ∧
    (counts 0 4102).flen.toNat < 4103 := by decide

theorem witness_GetfbReadsOneByte : (0x1006FF06#32 : Word).extractLsb' 0 8 = 0x06#8 ∧
    (counts 0 4103).flen.toNat ≤ (4103#16 : Half).toNat ∧
    ((counts 0 4103).flen.toNat ≤ 4103 ∧ (4102#16 : Half).toNat < (counts 0 4103).flen.toNat) := by decide

theorem witness_LoadsFillTheBuffers :
    ({ State.reset with host := ⟨loadPb digits, 0, []⟩ }.ready ∧ digits.length ≤ 4096 ∧
      (loadPb digits).drop 0 = loadPb digits ++ []) ∧
    ({ State.reset with host := ⟨loadFb exitFrame, 0, []⟩ }.ready ∧ exitFrame.length ≤ 4103 ∧
      (loadFb exitFrame).drop 0 = loadFb exitFrame ++ []) := ⟨⟨⟨rfl, rfl⟩, by decide, rfl⟩, ⟨rfl, rfl⟩, by decide, rfl⟩

theorem witness_Sum16DependsOnTheMultiset : [0x01#8, 0x02#8].Perm [0x02#8, 0x01#8] := List.Perm.swap _ _ _

theorem witness_CrcsDetectAChangedByte : (0x31#8 : Byte) ≠ 0x30#8 := by decide

theorem witness_CrcsAreAffine : [0x31#8, 0x32#8].length = [0xFF#8, 0x00#8].length ∧
    [0xFF#8, 0x00#8].length = [0x17#8, 0x01#8].length := ⟨rfl, rfl⟩

theorem witness_ChecksumCommands :
    (0xFFFFFE10#32 : Word).extractLsb' 0 8 = 0x10#8 ∧ (0x00000111#32 : Word).extractLsb' 0 8 = 0x11#8 ∧
    (0x00000112#32 : Word).extractLsb' 0 8 = 0x12#8 ∧ (0x0000FF13#32 : Word).extractLsb' 0 8 = 0x13#8 ∧
    (counts 4096 4103).plen.toNat ≤ 4096 ∧ (counts 4096 4103).flen.toNat ≤ 4103 := by decide

theorem witness_BytesPastABufferFault :
    4096 < (counts 4097 0).plen.toNat ∧
    (4103 < (counts 0 4104).flen.toNat ∧ 4103 ≤ (4103#16 : Half).toNat ∧ (4103#16 : Half).toNat < (counts 0 4104).flen.toNat ∧
      (counts 0 4104).flen.toNat = (4097#16 : Half).toNat + 7) ∧
    ({ counts 0 4097 with waiting := some (.raw 7) }.admitted = true ∧
      4103 < (counts 0 4097).flen.toNat + (Reading.raw 7).size) ∧
    exec (.putpb 0#8) (counts 4097 0) = .fault .payloadAddress := by
  refine ⟨by decide, by decide, ⟨rfl, by decide⟩, rfl⟩

theorem witness_FrameLayout : (List.replicate 4096 (0x17#8 : Byte)).length ≤ 4096 := Nat.le_of_eq List.length_replicate

theorem witness_ChecksumBytesOnTheWire : (List.replicate 4096 (0x17#8 : Byte)).length ≤ 4096 ∧
    ∃ r : Half, r = ~~~((frame 0x3B#8 [] .crc16Ccitt).take 4).foldl crc16Step 0xFFFF#16 ∧ r = 0x4F6D#16 := by
  exact ⟨Nat.le_of_eq List.length_replicate, _, rfl, by decide +kernel⟩

/-- Words of the builders, with junk in the fields they do not use. -/
theorem witness_builder_words :
    [(0xFFFF9920#32, 0x20#8), (0xFFFFFF21#32, 0x21#8), (0xFFFF0022#32, 0x22#8), (0x00000023#32, 0x23#8),
      (0x00000024#32, 0x24#8), (0x00000025#32, 0x25#8), (0x00000026#32, 0x26#8), (0x00000027#32, 0x27#8),
      (0xFFFF0128#32, 0x28#8), (0xFFFF0129#32, 0x29#8), (0x0000002A#32, 0x2A#8)].all
      (fun x : Word × Byte => x.1.extractLsb' 0 8 = x.2) = true := by decide

theorem witness_PayloadBuildersEmit : (counts 4096 0).plen.toNat ≤ 4096 := by decide

theorem witness_ArgumentBuildersEmit : ∃ s : State, ∃ a b : List Byte, s.arg1.extractLsb' 0 16 ≠ 0#16 ∧
    a = [s.arg0.extractLsb' 0 8, s.arg0.extractLsb' 8 8, s.arg0.extractLsb' 16 8, s.arg0.extractLsb' 24 8] ∧
    b = [s.arg1.extractLsb' 0 8, s.arg1.extractLsb' 8 8, s.arg1.extractLsb' 16 8, s.arg1.extractLsb' 24 8] :=
  ⟨{ State.reset with arg0 := 0x01020304#32, arg1 := 0x0000A0B0#32 }, _, _, by decide, rfl, rfl⟩

theorem witness_RowBuildersEmit : (counts 4088 0).plen.toNat ≤ 4088 ∧ 4088 < (counts 4089 0).plen.toNat ∧
    ∃ head : List Byte, head = [State.reset.arg0.extractLsb' 0 8, State.reset.arg0.extractLsb' 8 8,
      State.reset.arg0.extractLsb' 16 8, State.reset.arg0.extractLsb' 24 8, State.reset.arg1.extractLsb' 0 8,
      State.reset.arg1.extractLsb' 8 8, State.reset.arg1.extractLsb' 16 8, State.reset.arg1.extractLsb' 24 8] :=
  ⟨by decide, by decide, _, rfl⟩

theorem witness_BeivFramesLegalIvs : (counts 0 0).plen.toNat = 0 ∧ (counts 8 0).plen.toNat = 8 ∧
    (counts 16 0).plen.toNat = 16 ∧
    ((counts 17 0).plen.toNat ≠ 0 ∧ (counts 17 0).plen.toNat ≠ 8 ∧ (counts 17 0).plen.toNat ≠ 16) := by decide

theorem witness_BuiltFramesParseBack :
    ([] : List Byte).length ≤ 4096 ∧ (framed exitFrame).flen.toNat = ([] : List Byte).length + 7 ∧
    (∀ a < ([] : List Byte).length + 7,
      some ((framed exitFrame).fb.read a) = (frame 0x3B#8 [] (framed exitFrame).mode)[a]?) ∧
    ((0x00#8 : Byte) = 0x00#8 ∧ ([] : List Byte) = []) := by decide +kernel

theorem witness_BuildThenParseRoundTrips : (counts 4096 0).plen.toNat ≤ 4096 := by decide

/-- Words of the parse commands and RREAD, with junk in the fields they do not use. -/
theorem witness_parse_words :
    [(0xFFFFFF30#32, 0x30#8), (0x00023731#32, 0x31#8), (0xFFFFFF32#32, 0x32#8), (0xFFFFFF33#32, 0x33#8),
      (0xFFFFFF34#32, 0x34#8), (0x0007FF40#32, 0x40#8)].all
      (fun x : Word × Byte => x.1.extractLsb' 0 8 = x.2) = true := by decide

/-- A good response with status 0 and no data. -/
def goodResponse : List Byte := [0x01#8, 0x00#8, 0x00#8, 0x00#8, 0xFF#8, 0xFF#8, 0x17#8]

/-- The same with a wrong checksum. -/
def badChecksum : List Byte := [0x01#8, 0x00#8, 0x00#8, 0x00#8, 0x00#8, 0x00#8, 0x17#8]

/-- PARSE_CHECKS_CHECKSUM = true. -/
def checking (s : State) : State := { s with config := { Config.default with parseChecksChecksum := true } }

theorem witness_PcustomReportsTheFirstFailure :
    ((framed goodResponse).flen.toNat ≤ 4103 ∧ (framed goodResponse).flen.toNat ≠ (1#16 : Half).toNat + 7) ∧
    ((framed exitFrame).flen.toNat = (0#16 : Half).toNat + 7 ∧ (framed exitFrame).fb.read 1 ≠ 0x5A#8 ∧
      (framed exitFrame).fb.read 1 ≠ 0x00#8) ∧
    ((framed goodResponse).flen.toNat = (0#16 : Half).toNat + 7 ∧ (framed goodResponse).fb.read 1 ≠ 0x5A#8 ∧
      (framed goodResponse).fb.read 1 = 0x00#8) ∧
    ((counts 0 7).flen.toNat = (0#16 : Half).toNat + 7 ∧ (counts 0 7).fb.read 1 = 0x00#8 ∧ ¬ (counts 0 7).wellMarked 0) ∧
    ((checking (framed badChecksum)).fb.read 1 = 0x00#8 ∧ (checking (framed badChecksum)).wellMarked 0 ∧
      (checking (framed badChecksum)).config.parseChecksChecksum = true ∧
      ¬ (checking (framed badChecksum)).checksumRight 0) ∧
    ((checking (framed goodResponse)).fb.read 1 = 0x00#8 ∧ (checking (framed goodResponse)).wellMarked 0 ∧
      (checking (framed goodResponse)).checksumRight 0) := by
  unfold State.wellMarked State.checksumRight
  decide +kernel

theorem witness_PdefaultAcceptsAnEmptyResponse :
    ((checking (framed goodResponse)).fb.read 1 = 0x00#8 ∧ (checking (framed goodResponse)).wellMarked 0 ∧
      (checking (framed goodResponse)).checksumRight 0) ∧
    (∃ t, exec .pdefault (framed goodResponse) = .next t) := by
  refine ⟨?_, _, rfl⟩
  unfold State.wellMarked State.checksumRight
  decide +kernel

theorem witness_PenterExtractsTheFields :
    ((checking (framed enterResponse)).fb.read 1 = 0x00#8 ∧ (checking (framed enterResponse)).wellMarked 8 ∧
      (checking (framed enterResponse)).checksumRight 8) ∧
    after (exec .penter (framed exitFrame)) (·.err) = some 0x0003#16 := by
  unfold State.wellMarked State.checksumRight
  decide +kernel

/-- The response of V-PRS-30. -/
def validResponse : List Byte := [0x01#8, 0x00#8, 0x01#8, 0x00#8, 0x01#8, 0xFD#8, 0xFF#8, 0x17#8]

theorem witness_PvchkReportsValidity :
    ((checking (framed validResponse)).fb.read 1 = 0x00#8 ∧ (checking (framed validResponse)).wellMarked 1 ∧
      (checking (framed validResponse)).checksumRight 1) ∧
    after (exec .pvchk (framed exitFrame)) (·.err) = some 0x0003#16 := by
  unfold State.wellMarked State.checksumRight
  decide +kernel

/-- A consistent frame of the least length, and one state for every way to be inconsistent. -/
theorem witness_PtryTakesAConsistentStatus :
    ((framed goodResponse).flen.toNat ≤ 4103 ∧ 7 ≤ (framed goodResponse).flen.toNat ∧
      0 = ((framed goodResponse).fb.read 2).toNat + 256 * ((framed goodResponse).fb.read 3).toNat ∧
      (framed goodResponse).fb.read 0 = 0x01#8 ∧ (framed goodResponse).fb.read 6 = 0x17#8 ∧
      (framed goodResponse).checksumRight 0) ∧
    (counts 0 6).flen.toNat < 7 ∧
    (framed [0x01#8, 0x00#8, 0x01#8, 0x00#8, 0xFF#8, 0xFF#8, 0x17#8]).flen.toNat < 1 + 7 ∧
    (counts 0 7).fb.read 0 ≠ 0x01#8 ∧ (counts 0 7).fb.read 6 ≠ 0x17#8 ∧ ¬ (framed badChecksum).checksumRight 0 := by
  unfold State.checksumRight
  decide +kernel

theorem witness_RreadRefusesWhatDoesNotFit : (0#16 : Half) = 0#16 ∧ 4103 < (counts 0 4100).flen.toNat + (4#16 : Half).toNat := by
  decide

/-- The largest read that fits, and the least. -/
theorem fits_boundary : (counts 0 4100).fits 3#16 ∧ State.reset.fits 1#16 ∧ State.reset.fits 4103#16 := by
  unfold State.fits
  decide

theorem witness_AlignedReadStoresRawBytes :
    ({ counts 0 4100 with pkt := true, transport := ⟨[0xFF#8, 0xFF#8, 0x17#8].map TEvent.byte, []⟩ }.fits 3#16 ∧
      [0xFF#8, 0xFF#8, 0x17#8].length = (3#16 : Half).toNat) ∧
    (State.reset.fits 1#16 ∧ [0x17#8].head? ≠ some State.reset.config.filler) := by
  unfold State.fits
  decide

/-- The stream of V-RR-4 with everything hypothesised of it. -/
theorem witness_LeadingFillerIsShiftedOut : ∃ (s : State) (size : Half) (n : Nat) (good refill : List Byte),
    s.fits size ∧ s.pkt = false ∧ 0 < n ∧ good ≠ [] ∧ good.head? ≠ some s.config.filler ∧
    n + good.length = size.toNat ∧ refill.length = n ∧
    s.transport.stream = (List.replicate n s.config.filler).map TEvent.byte ++ good.map TEvent.byte
      ++ refill.map TEvent.byte ++ [] :=
  ⟨streaming (List.replicate 6 0xFF#8 ++ goodResponse) [] State.reset, 7#16, 6, [0x01#8], goodResponse.drop 1,
    by unfold State.fits; decide, rfl, by decide, by decide, by decide, rfl, rfl, rfl⟩

/-- The last retry that may find a good byte, for a read of one byte (no tail) and of seven (V-RR-6). -/
theorem witness_GarbageIsRetriedByteByByte : ∃ (s : State) (good : Byte), s.fits 1#16 ∧ s.pkt = false ∧ 9 < 10 ∧
    good ≠ s.config.filler ∧ ([] : List Byte).length = (1#16 : Half).toNat - 1 ∧
    s.transport.stream = (List.replicate ((1#16 : Half).toNat + 9) s.config.filler).map TEvent.byte
      ++ TEvent.byte good :: ([] : List Byte).map TEvent.byte ++ [] :=
  ⟨streaming (List.replicate 10 0xFF#8 ++ [0x17#8]) [] State.reset, 0x17#8,
    by unfold State.fits; decide, rfl, by decide, by decide, rfl, rfl⟩

theorem witness_FillerOnlyTimesOut : ∃ s : State, s.fits 1#16 ∧ s.pkt = false ∧
    s.transport.stream = (List.replicate ((1#16 : Half).toNat + 10) s.config.filler).map TEvent.byte ++ [] :=
  ⟨streaming (List.replicate 11 0xFF#8) [] State.reset, by unfold State.fits; decide, rfl, rfl⟩

/-- The first read fails after six of seven bytes; the refill (V-RR-16), the last of ten retries and the tail (V-RR-18)
fail at once. -/
theorem witness_TransportFailureEndsTheRead :
    (∃ s t : State, s.fits 7#16 ∧ s.waiting = none ∧ exec (.rread 7#16) s = .next t ∧ t.waiting = none) ∧
    (∃ (s : State) (bytes : List Byte), s.fits 7#16 ∧ bytes.length < (7#16 : Half).toNat ∧
      s.transport.stream = bytes.map TEvent.byte ++ TEvent.fail 5#32 :: []) ∧
    (∃ (s : State) (good refill : List Byte), s.fits 7#16 ∧ s.pkt = false ∧ good ≠ [] ∧
      good.head? ≠ some s.config.filler ∧ 2 + good.length = (7#16 : Half).toNat ∧ refill.length < 2 ∧
      s.transport.stream
        = (List.replicate 2 s.config.filler ++ good ++ refill).map TEvent.byte ++ TEvent.fail 6#32 :: []) ∧
    (∃ s : State, s.fits 7#16 ∧ s.pkt = false ∧
      s.transport.stream
        = (List.replicate ((7#16 : Half).toNat + 9) s.config.filler).map TEvent.byte ++ TEvent.fail 7#32 :: []) ∧
    (∃ (s : State) (good : Byte) (tail : List Byte), s.fits 7#16 ∧ s.pkt = false ∧ good ≠ s.config.filler ∧
      tail.length < (7#16 : Half).toNat - 1 ∧
      s.transport.stream = (List.replicate ((7#16 : Half).toNat + 0) s.config.filler ++ good :: tail).map TEvent.byte
        ++ TEvent.fail 8#32 :: []) :=
  ⟨⟨streaming exitFrame [] State.reset, _, by unfold State.fits; decide, rfl, rfl, rfl⟩,
    ⟨streaming (exitFrame.take 6) [.fail 5#32] State.reset, exitFrame.take 6, by unfold State.fits; decide, by decide, rfl⟩,
    ⟨streaming [0xFF#8, 0xFF#8, 0x01#8, 0x00#8, 0x00#8, 0x00#8, 0xFF#8] [.fail 6#32] State.reset,
      [0x01#8, 0x00#8, 0x00#8, 0x00#8, 0xFF#8], [], by unfold State.fits; decide, rfl, by decide, by decide, rfl, by decide, rfl⟩,
    ⟨streaming (List.replicate 16 0xFF#8) [.fail 7#32] State.reset, by unfold State.fits; decide, rfl, rfl⟩,
    ⟨streaming (List.replicate 7 0xFF#8 ++ [0x01#8]) [.fail 8#32] State.reset, 0x01#8, [], by unfold State.fits; decide, rfl,
      by decide, by decide, rfl⟩⟩

theorem witness_RreadIssuesAtMostTwelveReads : ∃ t : State,
    exec (.rread 7#16) (streaming (List.replicate 16 0xFF#8 ++ goodResponse) [] State.reset) = .next t ∧
    t.transport.reads = [7, 1, 1, 1, 1, 1, 1, 1, 1, 1, 1, 6] := ⟨_, rfl, rfl⟩

theorem witness_PacketStartedFollowsTheFinalByte :
    after (exec (.rread 1#16) (streaming [0xAA#8] [] State.reset)) (fun t => (t.waiting, t.err, t.pkt))
      = some (none, 0x0000#16, true) ∧
    after (exec (.rread 1#16) (streaming [0x17#8] [] { State.reset with pkt := true })) (fun t => (t.waiting, t.err, t.pkt))
      = some (none, 0x0000#16, false) := by decide

/-- Any run of filler, so 16 bytes and 17, on both sides of the bound. -/
theorem witness_CleanFrameBehindFiller : ∀ m : Nat, ∃ s : State, s.fits 7#16 ∧ s.pkt = false ∧
    exitFrame.length = (7#16 : Half).toNat ∧ exitFrame.head? ≠ some s.config.filler ∧
    exitFrame.getLast? = some 0x17#8 ∧
    s.transport.stream = (List.replicate m s.config.filler).map TEvent.byte ++ exitFrame.map TEvent.byte ++ [] :=
  fun m => ⟨streaming (List.replicate m 0xFF#8 ++ exitFrame) [] State.reset, by
    unfold State.fits streaming; simp [State.reset], rfl, rfl, by simp [exitFrame, streaming, State.reset, Config.default], rfl, by simp [streaming, State.reset, Config.default]⟩

/-- One byte short of an answer: the raw read, the refill, the tenth retry and the tail; and a waiting state. -/
theorem witness_UnansweredReadWaits :
    (∃ (s : State) (bytes : List Byte), s.fits 7#16 ∧ s.transport.stream = bytes.map TEvent.byte ∧
      bytes.length < (7#16 : Half).toNat) ∧
    (∃ (s : State) (good refill : List Byte), s.fits 7#16 ∧ s.pkt = false ∧ good ≠ [] ∧
      good.head? ≠ some s.config.filler ∧ 6 + good.length = (7#16 : Half).toNat ∧ refill.length < 6 ∧
      s.transport.stream = (List.replicate 6 s.config.filler ++ good ++ refill).map TEvent.byte) ∧
    (∃ s : State, s.fits 7#16 ∧ s.pkt = false ∧
      s.transport.stream = (List.replicate ((7#16 : Half).toNat + 9) s.config.filler).map TEvent.byte) ∧
    (∃ (s : State) (good : Byte) (tail : List Byte), s.fits 7#16 ∧ s.pkt = false ∧ good ≠ s.config.filler ∧
      tail.length < (7#16 : Half).toNat - 1 ∧
      s.transport.stream = (List.replicate ((7#16 : Half).toNat + 9) s.config.filler ++ good :: tail).map TEvent.byte) ∧
    (waitingRefill.admitted = true ∧ waitingRefill.waiting = some (.refill [0x01#8] 6) ∧
      waitingRefill.flen.toNat + (Reading.refill [0x01#8] 6).size ≤ 4103 ∧
      waitingRefill.transport.stream = [0x00#8].map TEvent.byte ∧
      [(0x00#8 : Byte)].length < (Reading.refill [0x01#8] 6).count) :=
  ⟨⟨streaming (exitFrame.take 6) [] State.reset, exitFrame.take 6, by unfold State.fits; decide, rfl, by decide⟩,
    ⟨streaming (List.replicate 6 0xFF#8 ++ goodResponse.take 6) [] State.reset, [0x01#8], (goodResponse.take 6).drop 1,
      by unfold State.fits; decide, rfl, by decide, by decide, rfl, by decide, rfl⟩,
    ⟨streaming (List.replicate 16 0xFF#8) [] State.reset, by unfold State.fits; decide, rfl, rfl⟩,
    ⟨streaming (List.replicate 16 0xFF#8 ++ goodResponse.take 6) [] State.reset, 0x01#8, (goodResponse.take 6).drop 1,
      by unfold State.fits; decide, rfl, by decide, by decide, rfl⟩,
    rfl, rfl, by decide, rfl, by decide⟩

theorem witness_ResumedReadsEndAlike : ∃ s t : State, s.admitted = true ∧ s.waiting = none ∧ s.fits 7#16 ∧
    exec (.rread 7#16) s = .next t ∧ t.waiting ≠ none ∧ t.transport = ⟨[TEvent.byte 0x00#8], [7, 6]⟩ :=
  ⟨streaming (List.replicate 6 0xFF#8 ++ [0x01#8, 0x00#8]) [] State.reset, _, rfl, rfl, by unfold State.fits; decide, rfl,
    by decide, rfl⟩

end Sys2Proof.Tests
end

namespace Sys2Proof.Machine

/-! ### Which launches are refused, and that nothing else is (R7, R61, R249) -/

theorem config_wellFormed_iff {c : Config} : c.wellFormed = true ↔ c.filler ≠ 0x01#8 := by
  simp [Config.wellFormed, startByte]

/-- FILLER is tested first (log entry 9), so the number of hosts does not matter here. -/
theorem launchRefusal_of_filler_start {s : State} (h : s.config.filler = 0x01#8) :
    launchRefusal s = some .fillerIsStart := by
  simp [launchRefusal, config_wellFormed_iff, h]

theorem launchRefusal_of_second_host {s : State} (hf : s.config.filler ≠ 0x01#8) (hh : s.extraHosts ≠ 0) :
    launchRefusal s = some .secondHost := by
  simp [launchRefusal, config_wellFormed_iff, oneHost, hf, hh]

theorem step_of_launchRefusal {s : State} {r : Refusal} (h : launchRefusal s = some r) : step s = .refused r := by
  simp [step, h]

@[simp] theorem finishRead_ne_refused {n : Nat} {s : State} {x : ReadEnd × Transport} {r : Refusal} :
    finishRead n s x ≠ .refused r := by
  obtain ⟨e, t⟩ := x
  cases e <;> simp [finishRead]

theorem resumeRread_ne_refused {q : Reading} {s : State} {r : Refusal} : resumeRread q s ≠ .refused r := by
  unfold resumeRread
  split_ifs <;> simp

theorem regWrite_ne_refused {n : Byte} {v : Word} {s : State} {r : Refusal} : regWrite n v s ≠ .refused r := by
  rcases regWrite_cases n v s with ⟨-, e⟩ | ⟨a0, a1, e⟩ <;> rw [e]
  · exact runCommand_ne_refused
  · simp

theorem access_ne_refused {a : Access} {s : State} {r : Refusal} : access a s ≠ .refused r := by
  cases a with
  | write n v => exact regWrite_ne_refused
  | read n => simp [access]

/-- Once the launch is admitted, none of the things a step can do answers a refusal. -/
theorem step_ne_refused_of_admitted {s : State} {r : Refusal} (had : s.admitted = true) : step s ≠ .refused r := by
  rcases step_cases s with ⟨q, hl, -⟩ | ⟨-, q, -, e⟩ | ⟨-, -, -, e⟩ | ⟨-, -, a, -, e⟩
  · simp [launchRefusal_eq_none.2 had] at hl
  · exact e ▸ resumeRread_ne_refused
  · simp [e]
  · exact e ▸ access_ne_refused

/-- Settles O8: the two launch tests decide which refusal a step answers, and past them there is none. -/
theorem refusedLaunches : Obligations.RefusedLaunches := by
  refine ⟨fun s h => ?_, fun s hf _ => step_of_launchRefusal (launchRefusal_of_filler_start hf),
    fun s hf hh => step_of_launchRefusal (launchRefusal_of_second_host hf hh), fun s r => step_ne_refused_of_admitted⟩
  by_cases hf : s.config.filler = 0x01#8
  · exact ⟨_, step_of_launchRefusal (launchRefusal_of_filler_start hf)⟩
  · exact ⟨_, step_of_launchRefusal (launchRefusal_of_second_host hf (h.resolve_left hf))⟩

end Sys2Proof.Machine

namespace Sys2Proof.Machine

/-! ### The invariant -/

/-- No command is under way, so nothing has to be said of a read that waits. -/
theorem State.Inv.of_idle {t : State} (plen : t.plen.toNat ≤ pbufSize) (flen : t.flen.toNat ≤ fbufSize)
    (pb : t.pb.wf pbufSize) (fb : t.fb.wf fbufSize) (err : isResultCode t.err = true) (idle : t.waiting = none) :
    t.Inv :=
  ⟨plen, flen, pb, fb, err, fun r h => by simp [idle] at h⟩

/-- Settles O11: the fill counts are 0, the buffers empty, ERR is OK and no command is under way. -/
theorem resetMeetsTheInvariant : Obligations.ResetMeetsTheInvariant :=
  .of_idle (Nat.zero_le _) (Nat.zero_le _) (Memory.wf_nil _) (Memory.wf_nil _) rfl rfl

/-- A command that leaves PB and PLEN alone ends well where FB and FLEN are legal and its code is one of R241. -/
theorem State.Inv.of_payload_kept {s u : State} {c : ResultCode} (hs : s.Inv) (hc : c ≠ .btldr 0#8)
    (idle : u.waiting = none) (same : (u.plen, u.pb) = (s.plen, s.pb)) (flen : u.flen.toNat ≤ fbufSize)
    (fb : u.fb.wf fbufSize) : (u.setErr c).Inv := by
  simp only [Prod.mk.injEq] at same
  exact .of_idle (same.1 ▸ hs.plen_le) flen (same.2 ▸ hs.pb_wf) fb (isResultCode_bits hc) idle

theorem toNat_fill_le {n : Nat} (h : n ≤ fbufSize) : (BitVec.ofNat 13 n).toNat ≤ fbufSize := (toNat_fill h).symm ▸ h

theorem toNat_fill_payload_le {n : Nat} (h : n ≤ pbufSize) : (BitVec.ofNat 13 n).toNat ≤ pbufSize :=
  (toNat_fill_payload h).symm ▸ h

/-- The window of an RREAD that fits keeps FB legal, whatever it then holds. -/
theorem State.Inv.window_wf {s : State} (hs : s.Inv) {n : Half} (fits : s.fits n) {w : List Byte}
    (len : w.length = n.toNat) : (s.fb.writeBytes s.flen.toNat w).wf fbufSize :=
  Memory.wf_writeBytes hs.fb_wf (len ▸ fits.2)

theorem Effect.keeps_inv {s t : State} {i : Instr} (hs : s.Inv) (idle : s.waiting = none)
    (hd : decode s.cmd = .ok i) (eff : Effect s i t) : t.Inv := by
  cases eff with
  | clrpb => exact .of_idle (Nat.zero_le _) hs.flen_le hs.pb_wf hs.fb_wf rfl idle
  | putpb b room =>
    exact .of_idle (toNat_fill_payload_le room) hs.flen_le (Memory.wf_write hs.pb_wf b room) hs.fb_wf rfl idle
  | clrfb => exact hs.of_payload_kept (by simp) idle rfl (Nat.zero_le _) hs.fb_wf
  | putfb b room => exact hs.of_payload_kept (by simp) idle rfl (toNat_fill_le room) (Memory.wf_write hs.fb_wf b room)
  | built i builder id p fits =>
    have fit : (frame id p s.mode).length ≤ fbufSize := by
      rw [length_frame]
      exact Nat.add_le_add_right fits 7
    exact hs.of_payload_kept (by simp) idle rfl (toNat_fill_le fit) (Memory.wf_writeBytes hs.fb_wf (by simpa using fit))
  | rread n fits w _ len => exact hs.of_payload_kept (by simp) idle rfl (toNat_fill_le fits.2) (hs.window_wf fits len)
  | rreadComm n fits => exact hs.of_payload_kept (by simp) idle rfl hs.flen_le (hs.window_wf fits (by simp))
  | rreadTimeout n fits => exact hs.of_payload_kept (by simp) idle rfl hs.flen_le (hs.window_wf fits (by simp))
  | rreadWaits n fits r _ legal last =>
    refine ⟨hs.plen_le, hs.flen_le, hs.pb_wf, hs.fb_wf, hs.err_legal, fun q hq => ?_⟩
    cases hq
    exact ⟨n, hd, fits, legal, last⟩
  | parseFails _ _ c _ code =>
    exact hs.of_payload_kept (by rcases code with rfl | rfl | rfl <;> simp) idle rfl hs.flen_le hs.fb_wf
  | parseFailsWith _ _ c _ code =>
    refine hs.of_payload_kept ?_ idle rfl hs.flen_le hs.fb_wf
    rcases code with rfl | ⟨st, nonzero, rfl⟩
    · simp
    · simpa using nonzero
  | _ => exact hs.of_payload_kept (by simp) idle rfl hs.flen_le hs.fb_wf

/-- The invariant does not speak of ARG0, ARG1 and the host, nor of CMD while no command is under way. -/
theorem State.Inv.of_port {s u : State} (hs : s.Inv) (idle : s.waiting = none)
    (same : u = { s with cmd := u.cmd, arg0 := u.arg0, arg1 := u.arg1, host := u.host }) : u.Inv := by
  rw [same]
  exact .of_idle hs.plen_le hs.flen_le hs.pb_wf hs.fb_wf hs.err_legal idle

theorem runCommand_keeps_inv {s t : State} {w : Word} (hs : s.Inv) (idle : s.waiting = none) (hw : s.cmd = w)
    (h : runCommand w s = .next t) : t.Inv := by
  rcases runCommand_cases w s with ⟨i, hd, e⟩ | e <;> rw [e] at h
  · exact (exec_effect h).keeps_inv hs idle (hw ▸ hd)
  · rw [raise_eq_next.1 h]
    exact hs.of_payload_kept (by simp) idle rfl hs.flen_le hs.fb_wf

theorem access_keeps_inv {s t : State} {a : Access} (hs : s.Inv) (idle : s.waiting = none)
    (h : access a s = .next t) : t.Inv := by
  cases a with
  | read n =>
    cases h
    exact hs.of_port idle rfl
  | write n v =>
    rcases regWrite_cases n v s with ⟨-, e⟩ | ⟨a0, a1, e⟩ <;> rw [access, e] at h
    · exact runCommand_keeps_inv (hs.of_port (u := s.setCmd v) idle rfl) idle rfl h
    · cases h
      exact hs.of_port idle rfl

/-- The RREAD that goes on is under way no longer, and its effect is one of the RREAD in CMD. -/
theorem resumeRread_keeps_inv {s t : State} {r : Reading} (hs : s.Inv) (hr : s.waiting = some r)
    (h : resumeRread r s = .next t) : t.Inv := by
  obtain ⟨n, hd, fits, legal, last⟩ := hs.waits_in_rread r hr
  obtain ⟨u, e, eff⟩ := resumeRread_effect fits legal last
  rw [h] at e
  cases e
  have released : (s.setWaiting none).Inv := .of_idle hs.plen_le hs.flen_le hs.pb_wf hs.fb_wf hs.err_legal rfl
  exact eff.keeps_inv released rfl hd

/-- Settles O12, by the things a step can do: only a command changes what the invariant speaks of, and every effect of a
command keeps it. -/
theorem everyStepKeepsTheInvariant : Obligations.EveryStepKeepsTheInvariant := by
  intro s t hs h
  rcases step_cases s with ⟨r, -, e⟩ | ⟨-, r, hr, e⟩ | ⟨-, -, -, e⟩ | ⟨-, idle, a, -, e⟩ <;> rw [e] at h
  · cases h
  · exact resumeRread_keeps_inv hs hr h
  · cases h
    exact hs
  · exact access_keeps_inv (hs.of_port (u := s.advance) idle rfl) idle h

end Sys2Proof.Machine

namespace Sys2Proof.Machine

/-! ### Bytes above a fill count: two states that agree on the valid bytes -/

/-- `s` with other bytes in its buffers. -/
def State.withBuffers (p f : Memory) (s : State) : State := { s with pb := p, fb := f }

/-- A state that a host cannot tell from `s` is `s` with other buffers that agree on the valid bytes. -/
theorem State.sameValid.eq_withBuffers {s t : State} (h : s.sameValid t) :
    ∃ p f, t = s.withBuffers p f ∧ (∀ a < s.plen.toNat, s.pb.read a = p.read a) ∧
      ∀ a < s.flen.toNat, s.fb.read a = f.read a :=
  ⟨t.pb, t.fb, h.fields.symm, h.payload_eq, h.frame_eq⟩

/-- What does not look at the buffers is the same of two such states. -/
theorem State.sameValid.blind {α : Type} {s t : State} (h : s.sameValid t) (g : State → α)
    (hg : ∀ p f, g (s.withBuffers p f) = g s) : g t = g s := by
  obtain ⟨p, f, rfl, -, -⟩ := h.eq_withBuffers
  exact hg p f

theorem State.sameValid.plen {s t : State} (h : s.sameValid t) : t.plen = s.plen := h.blind State.plen fun _ _ => rfl

theorem State.sameValid.flen {s t : State} (h : s.sameValid t) : t.flen = s.flen := h.blind State.flen fun _ _ => rfl

theorem State.sameValid.mode {s t : State} (h : s.sameValid t) : t.mode = s.mode := h.blind State.mode fun _ _ => rfl

theorem State.sameValid.config {s t : State} (h : s.sameValid t) : t.config = s.config :=
  h.blind State.config fun _ _ => rfl

theorem State.sameValid.payload {s t : State} (h : s.sameValid t) : payload t = payload s := by
  unfold Machine.payload
  rw [h.plen]
  exact Memory.readBytes_congr fun a ha => (h.payload_eq _ (by simpa using ha)).symm

theorem State.sameValid.frameBytes {s t : State} (h : s.sameValid t) : frameBytes t = frameBytes s := by
  unfold Machine.frameBytes
  rw [h.flen]
  exact Memory.readBytes_congr fun a ha => (h.frame_eq _ (by simpa using ha)).symm

theorem State.sameValid.rowPayload {s t : State} (h : s.sameValid t) : rowPayload t = rowPayload s := by
  unfold Machine.rowPayload
  rw [h.payload, h.blind State.arg0 fun _ _ => rfl, h.blind State.arg1 fun _ _ => rfl]

/-! #### Updates that keep two states alike -/

/-- An update that neither reads nor writes the buffers and the fill counts. -/
theorem State.sameValid.update {s t : State} (h : s.sameValid t) (u : State → State)
    (blind : ∀ p f, u (s.withBuffers p f) = (u s).withBuffers p f)
    (kept : ((u s).plen, (u s).flen, (u s).pb, (u s).fb) = (s.plen, s.flen, s.pb, s.fb)) : (u s).sameValid (u t) := by
  obtain ⟨p, f, rfl, hp, hf⟩ := h.eq_withBuffers
  simp only [Prod.mk.injEq] at kept
  obtain ⟨hplen, hflen, hpb, hfb⟩ := kept
  rw [blind]
  exact ⟨rfl, hplen ▸ hpb ▸ hp, hflen ▸ hfb ▸ hf⟩

theorem State.sameValid.setErr {s t : State} (h : s.sameValid t) (c : ResultCode) :
    (s.setErr c).sameValid (t.setErr c) := h.update _ (fun _ _ => rfl) rfl

theorem State.sameValid.setStatus {s t : State} (h : s.sameValid t) (b : Byte) :
    (s.setStatus b).sameValid (t.setStatus b) := h.update _ (fun _ _ => rfl) rfl

theorem State.sameValid.setTransport {s t : State} (h : s.sameValid t) (x : Transport) :
    (s.setTransport x).sameValid (t.setTransport x) := h.update _ (fun _ _ => rfl) rfl

theorem State.sameValid.setWaiting {s t : State} (h : s.sameValid t) (r : Option Reading) :
    (s.setWaiting r).sameValid (t.setWaiting r) := h.update _ (fun _ _ => rfl) rfl

theorem toNat_ofNat_le (n : Nat) : (BitVec.ofNat 13 n).toNat ≤ n := by
  rw [BitVec.toNat_ofNat]
  exact Nat.mod_le ..

/-- New contents of PB need to agree up to the new fill count only. -/
theorem State.sameValid.setPayload {s t : State} (h : s.sameValid t) {m m' : Memory} {n : Nat}
    (agree : ∀ a < n, m.read a = m'.read a) : (s.setPayload m n).sameValid (t.setPayload m' n) := by
  obtain ⟨p, f, rfl, -, hf⟩ := h.eq_withBuffers
  exact ⟨rfl, fun a ha => agree a (Nat.lt_of_lt_of_le ha (toNat_ofNat_le n)), hf⟩

theorem State.sameValid.setFrame {s t : State} (h : s.sameValid t) {m m' : Memory} {n : Nat}
    (agree : ∀ a < n, m.read a = m'.read a) : (s.setFrame m n).sameValid (t.setFrame m' n) := by
  obtain ⟨p, f, rfl, hp, -⟩ := h.eq_withBuffers
  exact ⟨rfl, hp, fun a ha => agree a (Nat.lt_of_lt_of_le ha (toNat_ofNat_le n))⟩

/-- Bytes written at or behind the valid ones keep the valid ones alike. -/
theorem Memory.read_writeBytes_congr {m m' : Memory} {k n : Nat} {w : List Byte}
    (agree : ∀ a < k, m.read a = m'.read a) (covers : n ≤ k + w.length) :
    ∀ a < n, (m.writeBytes k w).read a = (m'.writeBytes k w).read a := by
  intro a ha
  rw [read_writeBytes, read_writeBytes]
  split_ifs with hk
  · exact agree a hk
  · rw [List.getElem?_eq_getElem (by omega)]
    rfl

theorem State.sameValid.loseWindow {s t : State} (h : s.sameValid t) (n : Nat) :
    (s.loseWindow s.flen.toNat n).sameValid (t.loseWindow t.flen.toNat n) := by
  obtain ⟨p, f, rfl, hp, hf⟩ := h.eq_withBuffers
  exact ⟨rfl, hp, Memory.read_writeBytes_congr hf (Nat.le_add_right ..)⟩

/-! #### Outcomes that are alike -/

/-- Two outcomes a host cannot tell apart. -/
inductive Alike : Outcome → Outcome → Prop
  | next {s t : State} (h : s.sameValid t) : Alike (.next s) (.next t)
  | fault (f : Fault) : Alike (.fault f) (.fault f)
  | refused (r : Refusal) : Alike (.refused r) (.refused r)

theorem Alike.complete {s t : State} (h : s.sameValid t) : Alike (complete s) (complete t) := .next (h.setErr .ok)

theorem Alike.raise {s t : State} (h : s.sameValid t) (c : ResultCode) : Alike (raise c s) (raise c t) :=
  .next (h.setErr c)

theorem Alike.withSelected {s t : State} (h : s.sameValid t) (src : Src) {k k' : List Byte → Outcome}
    (hk : ∀ bytes, Alike (k bytes) (k' bytes)) : Alike (withSelected src s k) (withSelected src t k') := by
  cases src with
  | pb =>
    simp only [Machine.withSelected, h.plen, h.payload]
    split
    · exact hk _
    · exact .fault _
  | fb =>
    simp only [Machine.withSelected, h.flen, h.frameBytes]
    split
    · exact hk _
    · exact .fault _

/-- A builder overwrites FB from 0 to the new fill count. -/
theorem Alike.emit {s t : State} (h : s.sameValid t) {id id' : Byte} {p p' : List Byte} (hid : id' = id) (hp : p' = p) :
    Alike (emit id p s) (emit id' p' t) := by
  subst hid hp
  unfold Machine.emit
  split
  · exact .raise h _
  · rw [h.mode]
    exact .complete (h.setFrame (Memory.read_writeBytes_congr (k := 0) (by simp) (by simp)))

/-! #### The parser reads valid bytes only -/

theorem markersFit_congr {m m' : Memory} {d : Nat} (agree : ∀ a < d + 7, m.read a = m'.read a) :
    markersFit m' d = markersFit m d := by
  simp only [markersFit, readBytes_two, agree 0 (by omega), agree 2 (by omega), agree 3 (by omega),
    agree (d + 6) (by omega)]

theorem checksumFits_congr {m m' : Memory} {d : Nat} (agree : ∀ a < d + 7, m.read a = m'.read a) (mode : ChecksumMode) :
    checksumFits m' d mode = checksumFits m d mode := by
  have field : m'.readBytes (4 + d) 2 = m.readBytes (4 + d) 2 :=
    Memory.readBytes_congr fun j hj => (agree _ (by omega)).symm
  have covered : m'.readBytes 0 (4 + d) = m.readBytes 0 (4 + d) :=
    Memory.readBytes_congr fun j hj => (agree _ (by omega)).symm
  rw [checksumFits, field, covered, checksumFits]

/-- Past its length test a check reads bytes of the frame only (R163). -/
theorem State.sameValid.check {s t : State} (h : s.sameValid t) (d : Half) (e : Byte) : check d e t = check d e s := by
  by_cases hn : s.flen.toNat = d.toNat + 7
  · have agree : ∀ a < d.toNat + 7, s.fb.read a = t.fb.read a := hn ▸ h.frame_eq
    unfold Machine.check
    rw [h.flen, h.config, h.mode, agree 1 (by omega), markersFit_congr agree, checksumFits_congr agree]
  · rw [check_length hn, check_length (h.flen ▸ hn)]

theorem Alike.checked {s t : State} (h : s.sameValid t) (d : Half) (e : Byte) {k : State → State}
    (outputs : s.flen.toNat = d.toNat + 7 → ∀ st, (k (s.setStatus st)).sameValid (k (t.setStatus st))) :
    Alike (checked d e s k) (checked d e t k) := by
  unfold Machine.checked
  rw [h.check]
  by_cases hn : s.flen.toNat = d.toNat + 7
  · cases Machine.check d e s with
    | pass st => exact .complete (outputs hn st)
    | fails c => exact .raise h c
    | failsWith c st => exact .raise (h.setStatus st) c
    | badAddress => exact .fault _
  · rw [check_length hn]
    exact .raise h _

theorem Alike.execPenter {s t : State} (h : s.sameValid t) : Alike (execPenter s) (execPenter t) := by
  refine .checked h _ _ fun hn st => ?_
  have fill : s.flen.toNat = 15 := hn
  have field : ∀ a n, a + n ≤ 15 → t.fb.readBytes a n = s.fb.readBytes a n := fun a n fits =>
    Memory.readBytes_congr fun j hj => (h.frame_eq _ (by omega)).symm
  have revision : t.fb.read 8 = s.fb.read 8 := (h.frame_eq 8 (by omega)).symm
  simp only [State.setStatus_fb, field 4 4 (by omega), field 9 3 (by omega), revision]
  exact (h.setStatus st).update (fun s' => { s' with siid := _, sirev := _, blver := _ }) (fun _ _ => rfl) rfl

theorem Alike.execPvchk {s t : State} (h : s.sameValid t) : Alike (execPvchk s) (execPvchk t) := by
  refine .checked h _ _ fun hn st => ?_
  have fill : s.flen.toNat = 8 := hn
  have flag : t.fb.read 4 = s.fb.read 4 := (h.frame_eq 4 (by omega)).symm
  simp only [State.setStatus_fb, flag]
  exact (h.setStatus st).update (fun s' => { s' with ckvalid := checksumValid (s.fb.read 4) }) (fun _ _ => rfl) rfl

/-- PTRY reads the length field of a frame of at least seven bytes, and then no byte beyond the declared frame. -/
theorem Alike.execPtry {s t : State} (h : s.sameValid t) : Alike (execPtry s) (execPtry t) := by
  unfold Machine.execPtry
  rw [h.flen]
  split
  · exact .raise h _
  · rename_i short
    have long : 7 ≤ s.flen.toNat := Nat.not_lt.1 short
    have valid : ∀ a < 7, s.fb.read a = t.fb.read a := fun a ha => h.frame_eq a (by omega)
    have declared : declaredLength t.fb = declaredLength s.fb := by
      rw [declaredLength_eq, declaredLength_eq, valid 2 (by omega), valid 3 (by omega)]
    rw [declared]
    split
    · exact .fault _
    · split
      · exact .raise h _
      · rename_i beyond
        have fits : declaredLength s.fb + 7 ≤ s.flen.toNat := Nat.not_lt.1 beyond
        have agree : ∀ a < declaredLength s.fb + 7, s.fb.read a = t.fb.read a := fun a ha => h.frame_eq a (by omega)
        have consistent : selfConsistent t = selfConsistent s := by
          simp only [selfConsistent, declared, h.mode, checksumFits_congr agree, valid 0 (by omega),
            agree _ (Nat.lt_succ_self _)]
        rw [consistent, ← valid 1 (by omega)]
        split
        · exact .complete (h.setStatus _)
        · exact .raise h _

/-! #### The window of an RREAD covers what it makes valid -/

/-- A complete window has at least `size` bytes. -/
def CoversWindow (size : Nat) : ReadEnd × Transport → Prop
  | (.window w, _) => size ≤ w.length
  | (.comm _, _) | (.timeout, _) | (.unanswered _, _) => True

theorem coversWindow_answerThen {size : Nat} {r : Reading} {t : Transport}
    {next : List Byte → Transport → ReadEnd × Transport}
    (hnext : ∀ w t', w.length = r.count → CoversWindow size (next w t')) : CoversWindow size (answerThen r t next) := by
  unfold answerThen
  have spec := tread_spec r.count t.stream
  cases h : tread r.count t.stream with
  | ok bytes rest =>
    rw [h] at spec
    exact hnext bytes _ spec.1
  | fail e rest => trivial
  | unanswered => trivial

theorem coversWindow_afterTail {good : Byte} {k : Nat} {w : List Byte} (hw : w.length = k) (t : Transport) :
    CoversWindow (k + 1) (afterTail good w t) := Nat.succ_le_succ hw.ge

theorem coversWindow_afterRefill {good w : List Byte} {k : Nat} (hw : w.length = k) (t : Transport) :
    CoversWindow (good.length + k) (afterRefill good w t) := (List.length_append.trans (hw ▸ rfl)).ge

theorem coversWindow_readTail (size : Nat) (good : Byte) (t : Transport) :
    CoversWindow size (readTail size good t) := by
  by_cases h : size = 1
  · exact h ▸ Nat.le_refl 1
  · rw [readTail_more h]
    exact coversWindow_answerThen fun w t' hw =>
      Nat.le_trans (Nat.le_succ_of_pred_le (Nat.le_refl _)) (coversWindow_afterTail (good := good) hw t')

theorem coversWindow_afterRetry {filler : Byte} {size left : Nat} {w : List Byte} {t : Transport}
    (h : CoversWindow size (retryByte filler size left t)) : CoversWindow size (afterRetry filler size left w t) := by
  unfold afterRetry
  split
  · exact h
  · exact coversWindow_readTail _ _ _

theorem coversWindow_retryByte (filler : Byte) (size n : Nat) (t : Transport) :
    CoversWindow size (retryByte filler size n t) := by
  induction n generalizing t with
  | zero => trivial
  | succ n ih =>
    rw [retryByte_succ]
    exact coversWindow_answerThen fun w t' _ => coversWindow_afterRetry (ih t')

theorem coversWindow_afterRaw (filler : Byte) (pkt : Bool) {size : Nat} {w : List Byte} (hw : w.length = size)
    (t : Transport) : CoversWindow size (afterRaw filler pkt size w t) := by
  have parts : (w.drop (leadingFiller filler w)).length + leadingFiller filler w = size := by
    rw [List.length_drop, leadingFiller, Nat.sub_add_cancel (List.takeWhile_prefix _).length_le, hw]
  unfold afterRaw
  split_ifs
  · exact hw.ge
  · exact coversWindow_retryByte _ _ _ _
  · exact hw.ge
  · exact coversWindow_answerThen fun r t' hr => parts ▸ coversWindow_afterRefill hr t'

/-- This holds from any read on, one that no run waits for included. -/
theorem coversWindow_goOn (filler : Byte) (pkt : Bool) (r : Reading) (t : Transport) :
    CoversWindow r.size (goOn filler pkt r t) := by
  cases r with
  | raw size => exact coversWindow_answerThen fun w t' hw => coversWindow_afterRaw filler pkt hw t'
  | retry size left =>
    exact coversWindow_answerThen fun w t' _ => coversWindow_afterRetry (coversWindow_retryByte filler size left t')
  | tail good k => exact coversWindow_answerThen fun w t' hw => coversWindow_afterTail hw t'
  | refill good k => exact coversWindow_answerThen fun w t' hw => coversWindow_afterRefill hw t'

theorem Alike.finishRead {s t : State} (h : s.sameValid t) {size : Nat} {x : ReadEnd × Transport}
    (covers : CoversWindow size x) : Alike (finishRead size s x) (finishRead size t x) := by
  obtain ⟨e, x'⟩ := x
  cases e with
  | window w =>
    simp only [Machine.finishRead, h.flen]
    have packet := h.update (fun s' => { s' with pkt := pktAfter w }) (fun _ _ => rfl) rfl
    exact .complete ((packet.setFrame (Memory.read_writeBytes_congr h.frame_eq
      (Nat.add_le_add_left covers _))).setTransport x')
  | comm e =>
    have failed := h.update (fun s' => { s' with terr := e }) (fun _ _ => rfl) rfl
    exact .raise ((failed.loseWindow size).setTransport x') _
  | timeout => exact .raise ((h.loseWindow size).setTransport x') _
  | unanswered r => exact .next ((h.setWaiting _).setTransport x')

theorem Alike.execRread {s t : State} (h : s.sameValid t) (size : Half) :
    Alike (execRread size s) (execRread size t) := by
  unfold Machine.execRread
  rw [h.flen, h.config, h.blind State.pkt fun _ _ => rfl, h.blind State.transport fun _ _ => rfl]
  split_ifs
  · exact .raise h _
  · exact .raise h _
  · exact .finishRead h (coversWindow_goOn _ _ (.raw _) _)

theorem Alike.resumeRread {s t : State} (h : s.sameValid t) (r : Reading) :
    Alike (resumeRread r s) (resumeRread r t) := by
  unfold Machine.resumeRread
  rw [h.flen, h.config, h.blind State.pkt fun _ _ => rfl, h.blind State.transport fun _ _ => rfl]
  split_ifs
  · exact .fault _
  · exact .finishRead (h.setWaiting none) (coversWindow_goOn _ _ r _)

/-! #### Commands, accesses and steps -/

theorem Alike.exec {s t : State} (h : s.sameValid t) (i : Instr) : Alike (exec i s) (exec i t) := by
  cases i with
  | setmode m => exact .complete (h.update (fun s' => { s' with mode := m }) (fun _ _ => rfl) rfl)
  | clrpb => exact .complete (h.setPayload (n := 0) (by simp))
  | clrfb => exact .complete (h.setFrame (n := 0) (by simp))
  | putpb b =>
    simp only [Machine.exec, execPutpb, h.plen]
    split_ifs
    · exact .raise h _
    · exact .complete (h.setPayload (Memory.read_writeBytes_congr h.payload_eq (Nat.le_refl _)))
    · exact .fault _
  | putfb b =>
    simp only [Machine.exec, execPutfb, h.flen]
    split_ifs
    · exact .raise h _
    · exact .complete (h.setFrame (Memory.read_writeBytes_congr h.frame_eq (Nat.le_refl _)))
    · exact .fault _
  | getfb index =>
    have fill : t.flen.toNat = s.flen.toNat := congrArg _ h.flen
    simp only [Machine.exec, execGetfb, fill]
    split_ifs with beyond
    · exact .raise h _
    · rw [h.frame_eq _ (Nat.not_le.1 beyond)]
      exact .complete (h.update (fun s' => { s' with rdata := t.fb.read index.toNat }) (fun _ _ => rfl) rfl)
    · exact .fault _
  | sum16 src =>
    exact .withSelected h src fun bytes =>
      .complete (h.update (fun s' => { s' with chk16 := Machine.sum16 bytes }) (fun _ _ => rfl) rfl)
  | crc16 src =>
    exact .withSelected h src fun bytes =>
      .complete (h.update (fun s' => { s' with chk16 := crc16Ccitt bytes }) (fun _ _ => rfl) rfl)
  | csum16 src =>
    exact .withSelected h src fun bytes =>
      .complete (h.update (fun s' => { s' with chk16 := checksum16 bytes s'.mode }) (fun _ _ => rfl) rfl)
  | crc32c src =>
    exact .withSelected h src fun bytes =>
      .complete (h.update (fun s' => { s' with crc32 := Machine.crc32c bytes }) (fun _ _ => rfl) rfl)
  | build id => exact .emit h rfl h.payload
  | benter => exact .emit h (congrArg Config.cmdEnter h.config) (h.blind enterPayload fun _ _ => rfl)
  | bexit => exact .emit h (congrArg Config.cmdExit h.config) (Eq.refl [])
  | bsend => exact .emit h (congrArg Config.cmdSend h.config) h.payload
  | bsendnr => exact .emit h (congrArg Config.cmdSendNr h.config) h.payload
  | bprog => exact .emit h (congrArg Config.cmdProgram h.config) h.rowPayload
  | bverify => exact .emit h (congrArg Config.cmdVerify h.config) h.rowPayload
  | berase => exact .emit h (congrArg Config.cmdErase h.config) (h.blind erasePayload fun _ _ => rfl)
  | bvchk app => exact .emit h (congrArg Config.cmdVerifyChecksum h.config) (Eq.refl [app])
  | bmeta app => exact .emit h (congrArg Config.cmdSetMetadata h.config) (h.blind (metaPayload app) fun _ _ => rfl)
  | beiv =>
    simp only [Machine.exec, execBeiv, h.plen]
    split_ifs
    · exact .emit h (congrArg Config.cmdSetEiv h.config) h.payload
    · exact .raise h _
  | pdefault => exact .checked h _ _ fun _ st => h.setStatus st
  | pcustom status len => exact .checked h _ _ fun _ st => h.setStatus st
  | penter => exact .execPenter h
  | pvchk => exact .execPvchk h
  | ptry => exact .execPtry h
  | rread size => exact .execRread h size

theorem Alike.access {s t : State} (h : s.sameValid t) (a : Access) : Alike (access a s) (access a t) := by
  cases a with
  | read n =>
    have value : regRead t n = regRead s n := h.blind (regRead · n) fun _ _ => rfl
    rw [Machine.access, Machine.access, value]
    exact .next (h.update _ (fun _ _ => rfl) rfl)
  | write n v =>
    have stored : (s.setCmd v).sameValid (t.setCmd v) := h.update _ (fun _ _ => rfl) rfl
    simp only [Machine.access, regWrite]
    split
    · unfold runCommand
      split
      · exact .exec stored _
      · exact .raise stored _
    · exact .next (h.update (fun s' => { s' with arg0 := v }) (fun _ _ => rfl) rfl)
    · exact .next (h.update (fun s' => { s' with arg1 := v }) (fun _ _ => rfl) rfl)
    · exact .next h

theorem Alike.step {s t : State} (h : s.sameValid t) : Alike (step s) (step t) := by
  have launch : launchRefusal t = launchRefusal s := h.blind launchRefusal fun _ _ => rfl
  have waiting : t.waiting = s.waiting := h.blind State.waiting fun _ _ => rfl
  have access : nextAccess t = nextAccess s := h.blind nextAccess fun _ _ => rfl
  unfold Machine.step
  rw [launch, waiting, access]
  split
  · exact .refused _
  · split
    · exact .resumeRread h _
    · split
      · exact .next h
      · exact .access (h.update State.advance (fun _ _ => rfl) rfl) _

/-- Settles O18: nothing a step does reads a byte above a fill count, and what it makes valid it has written. -/
theorem hiddenBytesAreUnobservable : Obligations.HiddenBytesAreUnobservable := by
  intro s t h
  have alike := Alike.step h
  generalize Machine.step s = o, Machine.step t = o' at alike ⊢
  cases alike with
  | next h' => simpa using h'
  | fault f => simp
  | refused r => simp

end Sys2Proof.Machine

namespace Sys2Proof.Machine

/-! ### What a command writes -/

/-- Settles O17, by the ways a command can end: two of them are known of a class of commands only, every other one names
its command. -/
theorem registersHaveOnlyTheirWriters : Obligations.RegistersHaveOnlyTheirWriters := by
  intro i s t h
  cases exec_effect h with
  | built i builder => simp [builder]
  | parseFailsWith i parse => simp [parse]
  | _ => simp [isParse, isRread]

/-! ### One access of a ready host -/

theorem runCommand_of_decode {w : Word} {i : Instr} (hd : decode w = .ok i) (s : State) :
    runCommand w s = exec i s := by
  simp [runCommand, hd]

/-- R38: every number from 0x03 up ignores a write. -/
theorem regWrite_of_three_le {n : Byte} (hn : 0x03 ≤ n.toNat) (v : Word) (s : State) : regWrite n v s = .next s := by
  unfold regWrite
  split
  any_goals omega
  rfl

/-- R38: every number from 0x11 up reads 0. -/
theorem regRead_of_unmapped {n : Byte} (hn : 0x11 ≤ n.toNat) (s : State) : regRead s n = 0#32 := by
  unfold regRead
  split
  any_goals omega
  rfl

/-- Settles O5: the step of a ready machine is the access, and that access stores the word and runs it. -/
theorem stepRunsTheDecodedCommand : Obligations.StepRunsTheDecodedCommand := by
  intro s w i ready hw hd _
  rw [step_of_ready ready hw]
  exact runCommand_of_decode hd _

/-- Settles O6: ARG0 and ARG1 by the access itself, the other numbers by the map, and the commands by their frame. -/
theorem registerWrites : Obligations.RegisterWrites := by
  refine ⟨fun s v ready hw => ?_, fun s v ready hw => ?_, fun s n v ready hn hw => ?_, fun s => ⟨rfl, rfl⟩,
    fun s n hn => regRead_of_unmapped hn s, fun i s t h => ?_⟩
  · exact step_of_ready ready hw
  · exact step_of_ready ready hw
  · rw [step_of_ready ready hw]
    exact regWrite_of_three_le hn v _
  · obtain ⟨⟨-, arg0, arg1, -⟩, -⟩ := registersHaveOnlyTheirWriters i s t h
    exact ⟨arg0, arg1⟩

/-- A one-bit register reads as 0 or 1 (10_state.md R41). -/
theorem toNat_bit (b : Bool) : ((BitVec.ofBool b).setWidth 32).toNat = if b then 1 else 0 := by cases b <;> rfl

/-- Settles O7: the access hands over what the map names, widened with zeros. -/
theorem registerReads : Obligations.RegisterReads := by
  refine ⟨fun s n ready hr => step_of_ready ready hr, fun s => ?_⟩
  have wide : ∀ {n : Nat} (v : BitVec n), n ≤ 32 → (v.setWidth 32).toNat = v.toNat := fun v hn =>
    BitVec.toNat_setWidth_of_le hn
  refine ⟨rfl, rfl, rfl, wide s.err (by decide), wide s.status (by decide), ?_, toNat_bit s.pkt,
    wide s.plen (by decide), wide s.flen (by decide), wide s.chk16 (by decide), rfl, rfl, wide s.sirev (by decide),
    wide s.blver (by decide), toNat_bit s.ckvalid, wide s.rdata (by decide), rfl⟩
  refine (toNat_bit s.mode.toBit).trans ?_
  cases s.mode <;> rfl

end Sys2Proof.Machine

namespace Sys2Proof.Machine

/-! ### Commands that run again on what they left (20_memory.md R70) -/

/-- What the checksum and the parse commands read. None of them writes any of it. -/
def State.inputs (s : State) : BitVec 13 × Memory × BitVec 13 × Memory × ChecksumMode × Config :=
  (s.plen, s.pb, s.flen, s.fb, s.mode, s.config)

theorem State.inputs_eq {s u : State} : u.inputs = s.inputs ↔
    u.plen = s.plen ∧ u.pb = s.pb ∧ u.flen = s.flen ∧ u.fb = s.fb ∧ u.mode = s.mode ∧ u.config = s.config := by
  simp [State.inputs]

/-- A selection that succeeds hands over the same bytes in every state with the same inputs. -/
theorem withSelected_eq_next {src : Src} {s t : State} {k : List Byte → Outcome} (h : withSelected src s k = .next t) :
    ∃ bytes, k bytes = .next t ∧
      ∀ {u : State} {k' : List Byte → Outcome}, u.inputs = s.inputs → withSelected src u k' = k' bytes := by
  cases src with
  | pb =>
    simp only [withSelected] at h
    split_ifs at h with legal
    refine ⟨payload s, h, fun same => ?_⟩
    obtain ⟨plen, pb, -⟩ := State.inputs_eq.1 same
    simp [withSelected, payload, plen, pb, legal]
  | fb =>
    simp only [withSelected] at h
    split_ifs at h with legal
    refine ⟨frameBytes s, h, fun same => ?_⟩
    obtain ⟨-, -, flen, fb, -⟩ := State.inputs_eq.1 same
    simp [withSelected, frameBytes, flen, fb, legal]

theorem check_congr {s u : State} (same : u.inputs = s.inputs) (d : Half) (e : Byte) : check d e u = check d e s := by
  obtain ⟨-, -, flen, fb, mode, config⟩ := State.inputs_eq.1 same
  simp only [check, flen, fb, mode, config]

/-- A checked parse ends its check the same way again, and writes the same outputs. -/
theorem checked_idem {d : Half} {e : Byte} {s t : State} {k : State → State}
    (kept : ∀ st, (k (s.setStatus st)).inputs = s.inputs)
    (again : ∀ st, (k (((k (s.setStatus st)).setErr .ok).setStatus st)).setErr .ok = (k (s.setStatus st)).setErr .ok)
    (h : checked d e s k = .next t) : checked d e t k = .next t := by
  unfold checked at h
  cases hc : check d e s with
  | pass st =>
    rw [hc] at h
    obtain rfl := complete_eq_next.1 h
    have passes := (check_congr (u := (k (s.setStatus st)).setErr .ok) (kept st) d e).trans hc
    simp only [checked, passes, complete_eq_next, again]
  | fails c =>
    rw [hc] at h
    obtain rfl := raise_eq_next.1 h
    have fails := (check_congr (u := s.setErr c) rfl d e).trans hc
    rw [checked, fails]
    rfl
  | failsWith c st =>
    rw [hc] at h
    obtain rfl := raise_eq_next.1 h
    have fails := (check_congr (u := (s.setStatus st).setErr c) rfl d e).trans hc
    rw [checked, fails]
    rfl
  | badAddress =>
    rw [hc] at h
    cases h

theorem execPtry_idem {s t : State} (h : execPtry s = .next t) : execPtry t = .next t := by
  unfold execPtry at h
  split_ifs at h with short past beyond consistent
  · obtain rfl := raise_eq_next.1 h
    exact if_pos short
  · obtain rfl := raise_eq_next.1 h
    exact (if_neg short).trans ((if_neg past).trans (if_pos beyond))
  · obtain rfl := complete_eq_next.1 h
    exact (if_neg short).trans ((if_neg past).trans ((if_neg beyond).trans (if_pos consistent)))
  · obtain rfl := raise_eq_next.1 h
    exact (if_neg short).trans ((if_neg past).trans ((if_neg beyond).trans (if_neg consistent)))

theorem execGetfb_idem {i : Half} {s t : State} (h : execGetfb i s = .next t) : execGetfb i t = .next t := by
  unfold execGetfb at h
  split_ifs at h with beyond inside
  · obtain rfl := raise_eq_next.1 h
    exact if_pos beyond
  · obtain rfl := complete_eq_next.1 h
    exact (if_neg beyond).trans (if_pos inside)

/-- A builder writes none of what its payload is made of: only FB, FLEN and ERR (R132). -/
theorem emit_frame {id : Byte} {p : List Byte} {s t : State} (h : emit id p s = .next t) :
    ∃ f n e, t = { s with fb := f, flen := n, err := e } := by
  rcases emit_eq_next.1 h with ⟨-, rfl⟩ | ⟨-, rfl⟩
  · exact ⟨s.fb, s.flen, _, rfl⟩
  · exact ⟨_, _, _, rfl⟩

theorem emit_idem {id : Byte} {p : List Byte} {s t : State} (h : emit id p s = .next t) : emit id p t = .next t := by
  rcases emit_eq_next.1 h with ⟨long, rfl⟩ | ⟨fits, rfl⟩
  · exact emit_eq_next.2 (.inl ⟨long, rfl⟩)
  · refine emit_eq_next.2 (.inr ⟨fits, ?_⟩)
    simp only [State.setErr_fb, State.setFrame_fb, State.setErr_mode, State.setFrame_mode, Memory.writeBytes_idem]
    rfl

theorem execBeiv_idem {s t : State} (h : execBeiv s = .next t) : execBeiv t = .next t := by
  unfold execBeiv at h
  split_ifs at h with legal
  · obtain ⟨f, n, e, rfl⟩ := emit_frame h
    exact (if_pos legal).trans (emit_idem h)
  · obtain rfl := raise_eq_next.1 h
    exact if_neg legal

/-- Settles O20: a command other than the three writes nothing that it reads, except that a builder writes the same
frame over FB. -/
theorem commandsAreIdempotent : Obligations.CommandsAreIdempotent := by
  intro i s t notRread notPutpb notPutfb h
  cases i with
  | setmode m | clrpb | clrfb =>
    obtain rfl := complete_eq_next.1 h
    rfl
  | getfb i => exact execGetfb_idem h
  | sum16 src | crc16 src | csum16 src | crc32c src =>
    simp only [exec] at h ⊢
    obtain ⟨bytes, e, again⟩ := withSelected_eq_next h
    obtain rfl := complete_eq_next.1 e
    exact again rfl
  | build id | benter | bexit | bsend | bsendnr | bprog | bverify | berase | bvchk app | bmeta app =>
    simp only [exec] at h ⊢
    obtain ⟨f, n, e, rfl⟩ := emit_frame h
    exact emit_idem h
  | beiv => exact execBeiv_idem h
  | pdefault | pcustom st d | penter | pvchk =>
    simp only [exec] at h ⊢
    exact checked_idem (fun _ => rfl) (fun _ => rfl) h
  | ptry => exact execPtry_idem h
  | putpb b => exact absurd rfl (notPutpb b)
  | putfb b => exact absurd rfl (notPutfb b)
  | rread size => simp [isRread] at notRread

end Sys2Proof.Machine

namespace Sys2Proof.Machine

/-! ### The checksum bytes of a frame (R65, R84) -/

theorem leBytes_two_half (c : Half) : leBytes 2 c.toNat = [c.extractLsb' 0 8, c.extractLsb' 8 8] := by
  simp [leBytes_two, BitVec.extractLsb', Nat.shiftRight_eq_div_pow]

/-- The field behind the payload holds the checksum of the bytes before it, low byte first. -/
theorem frame_checksum_bytes (id : Byte) (p : List Byte) (mode : ChecksumMode) :
    (frame id p mode)[4 + p.length]? = some ((checksum16 (frameHead id p) mode).extractLsb' 0 8) ∧
    (frame id p mode)[5 + p.length]? = some ((checksum16 (frameHead id p) mode).extractLsb' 8 8) := by
  have low : 4 + p.length = (frameHead id p).length := by rw [length_frameHead, Nat.add_comm]
  have high : 5 + p.length = (frameHead id p).length + 1 := by rw [← low]; omega
  rw [frame_eq, leBytes_two_half, low, high]
  constructor <;> simp

theorem swapBytes_low (r : Half) : (swapBytes r).extractLsb' 0 8 = r.extractLsb' 8 8 := by
  ext i hi
  have inside : i < 16 := by omega
  simp [swapBytes, hi, inside]

theorem swapBytes_high (r : Half) : (swapBytes r).extractLsb' 8 8 = r.extractLsb' 0 8 := by
  ext i hi
  have inside : 8 + i < 16 := by omega
  have low : i < 16 := by omega
  simp [swapBytes, hi, inside, low]

/-- Settles O36: the field is little-endian in both modes, and the CRC is swapped before it is stored. -/
theorem checksumBytesOnTheWire : Obligations.ChecksumBytesOnTheWire := by
  intro id p _
  simp only [take_frame]
  constructor
  · rintro r rfl
    have bytes := frame_checksum_bytes id p .crc16Ccitt
    rwa [checksum16, crc16Ccitt, swapBytes_low, swapBytes_high] at bytes
  · rintro r rfl
    exact frame_checksum_bytes id p .sumComplement

end Sys2Proof.Machine

namespace Sys2Proof.Machine

/-! ### Bytes that do not exist (R63, log entry 11) -/

theorem withSelected_pb_past {s : State} (h : 4096 < s.plen.toNat) (k : List Byte → Outcome) :
    withSelected .pb s k = .fault .payloadAddress := if_neg (Nat.not_le.2 h)

theorem withSelected_fb_past {s : State} (h : 4103 < s.flen.toNat) (k : List Byte → Outcome) :
    withSelected .fb s k = .fault .frameAddress := if_neg (Nat.not_le.2 h)

theorem execPutpb_past {s : State} (h : 4096 < s.plen.toNat) (b : Byte) : execPutpb b s = .fault .payloadAddress :=
  (if_neg (Nat.ne_of_gt h)).trans (if_neg (Nat.lt_asymm h))

theorem execPutfb_past {s : State} (h : 4103 < s.flen.toNat) (b : Byte) : execPutfb b s = .fault .frameAddress :=
  (if_neg (Nat.ne_of_gt h)).trans (if_neg (Nat.lt_asymm h))

theorem execGetfb_past {s : State} {i : Half} (past : 4103 ≤ i.toNat) (valid : i.toNat < s.flen.toNat) :
    execGetfb i s = .fault .frameAddress :=
  (if_neg (Nat.not_le.2 valid)).trans (if_neg (Nat.not_lt.2 past))

/-- The length test passes, and the next one asks for a byte past FB. -/
theorem checked_past {s : State} {d : Half} (h : 4103 < s.flen.toNat) (hn : s.flen.toNat = d.toNat + 7) (e : Byte)
    (k : State → State) : checked d e s k = .fault .frameAddress := by
  have bad : check d e s = .badAddress := (if_neg (not_not.2 hn)).trans (if_pos h)
  rw [checked, bad]

theorem execPtry_past {s : State} (h : 4103 < s.flen.toNat) : execPtry s = .fault .frameAddress :=
  (if_neg (Nat.not_lt.2 (Nat.le_trans (by decide) h.le))).trans (if_pos h)

theorem resumeRread_past {s : State} {r : Reading} (h : 4103 < s.flen.toNat + r.size) :
    resumeRread r s = .fault .frameAddress := if_pos h

/-- Settles O34: each of these commands tests its address, and `exec_fault` says that no command faults otherwise. -/
theorem bytesPastABufferFault : Obligations.BytesPastABufferFault := by
  refine ⟨fun s b h => ?_, fun s b st i d h past valid hn => ?_, fun s r admitted waits h => ?_,
    fun i s f h => exec_fault h⟩
  · have selected := withSelected_pb_past h
    refine ⟨execPutpb_past h b, ?_, ?_, ?_, ?_⟩ <;>
      simp only [exec, execSum16, execCrc16, execCsum16, execCrc32c, selected]
  · have selected := withSelected_fb_past h
    refine ⟨execPutfb_past h b, execGetfb_past past valid, ?_, ?_, ?_, ?_, checked_past h hn st id, execPtry_past h⟩ <;>
      simp only [exec, execSum16, execCrc16, execCsum16, execCrc32c, selected]
  · rw [step_of_waiting admitted waits]
    exact resumeRread_past h

end Sys2Proof.Machine

namespace Sys2Proof

/-! ### Decoding is the choice of a command by OPC and the reading of its operands (R81, R92) -/

/-- The command `i` with every operand read from the word `w`. -/
def Instr.withOperands (w : Word) : Instr → Instr
  | .setmode _ => .setmode (modeOf w)
  | .putpb _ => .putpb (fieldB w)
  | .putfb _ => .putfb (fieldB w)
  | .getfb _ => .getfb (fieldH w)
  | .sum16 _ => .sum16 (srcOf w)
  | .crc16 _ => .crc16 (srcOf w)
  | .csum16 _ => .csum16 (srcOf w)
  | .crc32c _ => .crc32c (srcOf w)
  | .build _ => .build (fieldB w)
  | .bvchk _ => .bvchk (fieldB w)
  | .bmeta _ => .bmeta (fieldB w)
  | .pcustom _ _ => .pcustom (fieldB w) (fieldH w)
  | .rread _ => .rread (fieldH w)
  | i => i

/-- Every opcode of the map selects its command. -/
theorem decode_of_opcode {w : Word} {i : Instr} (h : fieldOPC w = i.opcode) : decode w = .ok (i.withOperands w) := by
  unfold decode
  rw [h]
  cases i <;> rfl

/-- No other opcode selects it. -/
theorem opcode_of_decode {w : Word} {i : Instr} (h : decode w = .ok i) : fieldOPC w = i.opcode := by
  unfold decode at h
  split at h
  all_goals cases h
  all_goals exact BitVec.eq_of_toNat_eq (by assumption)

/-- `B[0]` alone decides the mode operand (R82). -/
theorem modeOf_eq_iff {w : Word} {m : ChecksumMode} :
    modeOf w = m ↔ fieldB w &&& 0x01#8 = (BitVec.ofBool m.toBit).setWidth 8 := by
  rw [and_one_byte, modeOf]
  cases (fieldB w).getLsbD 0 <;> cases m <;> decide

/-- `B[0]` alone decides the source operand (R82). -/
theorem srcOf_eq_iff {w : Word} {src : Src} :
    srcOf w = src ↔ fieldB w &&& 0x01#8 = (BitVec.ofBool src.toBit).setWidth 8 := by
  rw [and_one_byte, srcOf]
  cases (fieldB w).getLsbD 0 <;> cases src <;> decide

/-- The operands a word gives are those of `i` exactly when its used operand bits are those of `i` (R82). -/
theorem withOperands_eq_iff {w : Word} {i : Instr} :
    i.withOperands w = i ↔ fieldB w &&& i.bMask = i.bField ∧ fieldH w &&& i.hMask = i.hField := by
  have wholeB := Laws.UsedBits.whole_byte (fieldB w)
  have wholeH := Laws.UsedBits.whole_half (fieldH w)
  cases i with
  | setmode m =>
    simp [Instr.withOperands, Instr.bMask, Instr.bField, Instr.hMask, Instr.hField, modeOf_eq_iff]
  | sum16 src | crc16 src | csum16 src | crc32c src =>
    simp [Instr.withOperands, Instr.bMask, Instr.bField, Instr.hMask, Instr.hField, srcOf_eq_iff]
  | putpb b | putfb b | build b | bvchk b | bmeta b =>
    simp [Instr.withOperands, Instr.bMask, Instr.bField, Instr.hMask, Instr.hField, wholeB]
  | getfb h | rread h =>
    simp [Instr.withOperands, Instr.bMask, Instr.bField, Instr.hMask, Instr.hField, wholeH]
  | pcustom st len =>
    simp [Instr.withOperands, Instr.bMask, Instr.bField, Instr.hMask, Instr.hField, wholeB, wholeH]
  | _ => simp [Instr.withOperands, Instr.bMask, Instr.bField, Instr.hMask, Instr.hField]

/-- A word decodes to `i` exactly when it has the opcode and the operands of `i`. -/
theorem decode_eq_ok_iff {w : Word} {i : Instr} :
    decode w = .ok i ↔ fieldOPC w = i.opcode ∧ i.withOperands w = i := by
  constructor
  · intro h
    have opcode := opcode_of_decode h
    rw [decode_of_opcode opcode] at h
    exact ⟨opcode, Except.ok.inj h⟩
  · rintro ⟨opcode, operands⟩
    rw [decode_of_opcode opcode, operands]

/-- Masking to the used bits, field by field: OPC is used whole. -/
theorem and_usedBits_eq_encode_iff {w : Word} {i : Instr} :
    w &&& i.usedBits = encode i ↔
      fieldOPC w = i.opcode ∧ fieldB w &&& i.bMask = i.bField ∧ fieldH w &&& i.hMask = i.hField := by
  rw [Instr.usedBits, and_packWord, encode, packWord_inj, Laws.UsedBits.whole_byte]

/-- Settles O3: the opcode is compared whole, and the operands read the used bits of `B` and `H` only. -/
theorem decodingReadsExactlyTheUsedBits : Obligations.DecodingReadsExactlyTheUsedBits := by
  intro w i
  rw [decode_eq_ok_iff, withOperands_eq_iff, and_usedBits_eq_encode_iff]

open Laws.UsedBits in
/-- What `Laws.UsedBits` says of each command, of all of them. -/
theorem encode_and_usedBits (i : Instr) : encode i &&& i.usedBits = encode i := by
  cases i
  exacts [setmode _, clrpb, putpb _, clrfb, putfb _, getfb _, sum16 _, crc16 _, csum16 _, crc32c _, build _, benter,
    bexit, bsend, bsendnr, bprog, bverify, berase, bvchk _, bmeta _, beiv, pdefault, pcustom _ _, penter, pvchk, ptry,
    rread _]

@[simp] theorem decode_encode (i : Instr) : decode (encode i) = .ok i :=
  (decodingReadsExactlyTheUsedBits _ i).2 (encode_and_usedBits i)

/-- Settles O2: the encoding sets used bits only, so all of it is read back. -/
theorem encodedCommandsDecodeBack : Obligations.EncodedCommandsDecodeBack := fun i _ => decode_encode i

/-- Settles O1: each word is evaluated by the decoder. -/
theorem sampleWordsDecode : Obligations.SampleWordsDecode := by
  unfold Obligations.SampleWordsDecode
  decide

end Sys2Proof

namespace Sys2Proof.Machine

/-! ### Reserved words (R93) -/

/-- The decoder rejects a word exactly when its opcode lies between the ranges of the map. -/
theorem decode_error_iff {w : Word} : decode w = .error (.reservedOpcode (fieldOPC w)) ↔
    (fieldOPC w).toNat = 0x00 ∨
    (0x07 ≤ (fieldOPC w).toNat ∧ (fieldOPC w).toNat ≤ 0x0F) ∨
    (0x14 ≤ (fieldOPC w).toNat ∧ (fieldOPC w).toNat ≤ 0x1F) ∨
    (0x2B ≤ (fieldOPC w).toNat ∧ (fieldOPC w).toNat ≤ 0x2F) ∨
    (0x35 ≤ (fieldOPC w).toNat ∧ (fieldOPC w).toNat ≤ 0x3F) ∨
    0x41 ≤ (fieldOPC w).toNat := by
  unfold decode
  split
  case h_28 =>
    refine iff_of_true rfl ?_
    simp only [imp_false] at *
    omega
  all_goals exact iff_of_false (by simp) (by omega)

theorem runCommand_of_error {w : Word} {e : DecodeError} (hd : decode w = .error e) (s : State) :
    runCommand w s = raise .cmderr s := by
  simp [runCommand, hd]

/-- Settles O4: the decoder's map leaves out the reserved opcodes only, and the access of a rejected word ends with
`raise CMDERR` after the store. -/
theorem reservedWordsReportCmderr : Obligations.ReservedWordsReportCmderr := by
  refine ⟨fun w => decode_error_iff, fun s w e ready hw hd => ?_,
    fun w h => decode_of_opcode (i := .build (fieldB w)) h⟩
  rw [step_of_ready ready hw]
  exact runCommand_of_error hd _

end Sys2Proof.Machine

namespace Sys2Proof

/-! ### LOADPB and LOADFB (R99): one argument for the two buffers -/

/-- The size of a buffer (10_state.md R40). -/
def Src.size : Src → Nat
  | .pb => Machine.pbufSize
  | .fb => Machine.fbufSize

/-- The command that empties a buffer (R221, R225). -/
def Src.clear : Src → Instr
  | .pb => .clrpb
  | .fb => .clrfb

/-- The command that appends a byte to a buffer (R223, R227). -/
def Src.put (b : Byte) : Src → Instr
  | .pb => .putpb b
  | .fb => .putfb b

end Sys2Proof

namespace Sys2Proof.Machine

/-- What a buffer holds. -/
def State.buffer (s : State) : Src → Memory
  | .pb => s.pb
  | .fb => s.fb

/-- A new content and fill count of a buffer. -/
def State.setBuffer (m : Memory) (n : Nat) (s : State) : Src → State
  | .pb => s.setPayload m n
  | .fb => s.setFrame m n

/-- `s` after `k` command words, the last of them `w`, that all ended with OK, but for the buffers. -/
def State.afterCommands (k : Nat) (w : Word) (s : State) : State :=
  { s with cmd := w, err := ResultCode.ok.bits, host := { s.host with pc := s.host.pc + k } }

@[simp] theorem State.setBuffer_ready {m : Memory} {n : Nat} {s : State} {src : Src} :
    (s.setBuffer m n src).ready ↔ s.ready := by
  cases src <;> rfl

@[simp] theorem State.setBuffer_host (m : Memory) (n : Nat) (s : State) (src : Src) :
    (s.setBuffer m n src).host = s.host := by
  cases src <;> rfl

@[simp] theorem State.afterCommands_ready {k : Nat} {w : Word} {s : State} : (s.afterCommands k w).ready ↔ s.ready :=
  Iff.rfl

/-- A step whose access is a command's mnemonic runs that command (R98). -/
theorem step_of_writeCommand {s : State} {i : Instr} {more : List Access} (ready : s.ready)
    (h : s.host.program.drop s.host.pc = writeCommand i :: more) : step s = exec i (s.advance.setCmd (encode i)) :=
  stepRunsTheDecodedCommand s (encode i) i ready (nextAccess_of_drop h) (decode_encode i) (by cases i <;> rfl)

theorem step_clear (src : Src) {s : State} {more : List Access} (ready : s.ready)
    (h : s.host.program.drop s.host.pc = writeCommand src.clear :: more) :
    step s = .next ((s.afterCommands 1 (encode src.clear)).setBuffer (s.buffer src) 0 src) := by
  rw [step_of_writeCommand ready h]
  cases src <;> rfl

theorem exec_putpb_of_room {s : State} {n : Nat} (fill : s.plen.toNat = n) (room : n < pbufSize) (b : Byte) :
    exec (.putpb b) s = complete (s.setPayload (s.pb.write n b) (n + 1)) := by
  subst fill
  exact (if_neg (Nat.ne_of_lt room)).trans (if_pos room)

theorem exec_putfb_of_room {s : State} {n : Nat} (fill : s.flen.toNat = n) (room : n < fbufSize) (b : Byte) :
    exec (.putfb b) s = complete (s.setFrame (s.fb.write n b) (n + 1)) := by
  subst fill
  exact (if_neg (Nat.ne_of_lt room)).trans (if_pos room)

/-- A put appends its byte where the buffer has room (R223, R227). -/
theorem exec_put (src : Src) (s : State) (m : Memory) {n : Nat} (room : n < src.size) (b : Byte) :
    exec (src.put b) (s.setBuffer m n src) = complete (s.setBuffer (m.write n b) (n + 1) src) := by
  cases src with
  | pb => exact exec_putpb_of_room (toNat_fill_payload room.le) room b
  | fb => exact exec_putfb_of_room (toNat_fill room.le) room b

theorem step_put (src : Src) {s : State} {m : Memory} {n k : Nat} {w : Word} {b : Byte} {more : List Access}
    (ready : s.ready) (room : n < src.size)
    (h : s.host.program.drop (s.host.pc + k) = writeCommand (src.put b) :: more) :
    step ((s.afterCommands k w).setBuffer m n src)
      = .next ((s.afterCommands (k + 1) (encode (src.put b))).setBuffer (m.write n b) (n + 1) src) := by
  have stored : ((s.afterCommands k w).setBuffer m n src).advance.setCmd (encode (src.put b))
      = ((s.afterCommands k w).advance.setCmd (encode (src.put b))).setBuffer m n src := by cases src <;> rfl
  rw [step_of_writeCommand (by simpa using ready) (by rw [State.setBuffer_host]; exact h), stored,
    exec_put src _ m room]
  cases src <;> rfl

/-- Bytes written one after the other from `n` up. -/
def Memory.writeEach (m : Memory) (n : Nat) : List Byte → Memory
  | [] => m
  | b :: bs => (m.write n b).writeEach (n + 1) bs

theorem Memory.read_writeEach (m : Memory) (n : Nat) (bytes : List Byte) (x : Nat) :
    (m.writeEach n bytes).read x = if x < n then m.read x else (bytes[x - n]?).getD (m.read x) := by
  induction bytes generalizing m n with
  | nil => simp [writeEach]
  | cons b bs ih =>
    rw [writeEach, ih, read_write]
    rcases Nat.lt_trichotomy x n with below | rfl | above
    · simp [below, Nat.lt_succ_of_lt below, Nat.ne_of_lt below]
    · simp
    · have next : x - n = x - (n + 1) + 1 := by omega
      rw [if_neg (Nat.not_lt.2 above), if_neg (Nat.not_lt.2 above.le), if_neg (Nat.ne_of_gt above), next,
        List.getElem?_cons_succ]

theorem Memory.read_writeEach_zero (m : Memory) (bytes : List Byte) (x : Nat) :
    (m.writeEach 0 bytes).read x = (bytes[x]?).getD (m.read x) := by
  simp [read_writeEach]

theorem run_of_step {s t : State} (h : step s = .next t) (k : Nat) :
    Host.Core.run Sys2Proof.core (k + 1) s = Host.Core.run Sys2Proof.core k t := by
  have core_step : Sys2Proof.core.step s = .next t := h
  simp only [Host.Core.run, core_step]

/-- The puts of a load, by induction on the bytes that are left. -/
theorem run_puts (src : Src) {s : State} (ready : s.ready) (bytes : List Byte) {more : List Access} {m : Memory}
    {n k : Nat} {w : Word} (room : n + bytes.length ≤ src.size)
    (h : s.host.program.drop (s.host.pc + k) = (bytes.map fun b => writeCommand (src.put b)) ++ more) :
    ∃ w', Host.Core.run Sys2Proof.core bytes.length ((s.afterCommands k w).setBuffer m n src)
      = .next ((s.afterCommands (k + bytes.length) w').setBuffer (m.writeEach n bytes) (n + bytes.length) src) := by
  induction bytes generalizing m n k w with
  | nil => exact ⟨w, rfl⟩
  | cons b bs ih =>
    simp only [List.length_cons] at room ⊢
    have rest : s.host.program.drop (s.host.pc + (k + 1)) = (bs.map fun b => writeCommand (src.put b)) ++ more := by
      rw [← Nat.add_assoc, ← List.drop_drop, h]
      rfl
    obtain ⟨w', run⟩ := ih (m := m.write n b) (n := n + 1) (w := encode (src.put b)) (by omega) rest
    refine ⟨w', ?_⟩
    rw [run_of_step (step_put src ready (by omega) h), run, Nat.add_right_comm k, Nat.add_right_comm n]
    rfl

/-- A load, run to its end (R99). -/
theorem run_load (src : Src) {s : State} (ready : s.ready) {bytes : List Byte} {more : List Access}
    (room : bytes.length ≤ src.size)
    (h : s.host.program.drop s.host.pc
      = writeCommand src.clear :: (bytes.map fun b => writeCommand (src.put b)) ++ more) :
    ∃ w, Host.Core.run Sys2Proof.core (bytes.length + 1) s = .next
      ((s.afterCommands (bytes.length + 1) w).setBuffer ((s.buffer src).writeEach 0 bytes) bytes.length src) := by
  have rest : s.host.program.drop (s.host.pc + 1) = (bytes.map fun b => writeCommand (src.put b)) ++ more := by
    rw [← List.drop_drop, h]
    rfl
  obtain ⟨w, run⟩ := run_puts src ready bytes (m := s.buffer src) (n := 0) (w := encode src.clear) (by omega) rest
  refine ⟨w, ?_⟩
  rw [run_of_step (step_clear src ready h), run, Nat.zero_add, Nat.add_comm 1]

/-- Settles O26: `run_load` for each buffer. -/
theorem loadsFillTheBuffers : Obligations.LoadsFillTheBuffers := by
  refine ⟨fun s bytes more ready room h => ?_, fun s bytes more ready room h => ?_⟩
  · obtain ⟨w, run⟩ := run_load .pb ready room h
    exact ⟨_, run, rfl, toNat_fill_payload room, Memory.read_writeEach_zero s.pb bytes⟩
  · obtain ⟨w, run⟩ := run_load .fb ready room h
    exact ⟨_, run, rfl, toNat_fill room, Memory.read_writeEach_zero s.fb bytes⟩

end Sys2Proof.Machine

namespace Sys2Proof.Machine

/-! ### The layout of a frame (R84, R85) -/

/-- A frame from its start: START, id, length, payload, and the five bytes behind it. -/
theorem frame_eq_cons (id : Byte) (p : List Byte) (mode : ChecksumMode) :
    frame id p mode = startByte :: id :: BitVec.ofNat 8 p.length :: BitVec.ofNat 8 (p.length / 256) ::
      (p ++ (leBytes 2 (checksum16 (frameHead id p) mode).toNat ++ [stopByte])) :=
  (frame_eq id p mode).trans (by simp [frameHead, leBytes_two])

theorem frame_stop (id : Byte) (p : List Byte) (mode : ChecksumMode) :
    (frame id p mode)[6 + p.length]? = some stopByte := by
  have last : 6 + p.length = (frameHead id p ++ leBytes 2 (checksum16 (frameHead id p) mode).toNat).length := by
    simp only [List.length_append, length_frameHead, length_leBytes]
    omega
  rw [frame, last, List.getElem?_concat_length]

/-- Settles O35: the head is read off, and the checksum field holds the low and the high byte of the checksum. -/
theorem frameLayout : Obligations.FrameLayout := by
  intro id p mode _
  obtain ⟨low, high⟩ := frame_checksum_bytes id p mode
  refine ⟨length_frame id p mode, rfl, rfl, rfl, rfl, ?_, ⟨_, _, low, high, ?_⟩, frame_stop id p mode⟩
  · rw [frame_eq_cons]
    exact List.take_left
  · rw [take_frame, ← le_two, ← leBytes_two_half]
    exact le_leBytes_two (checksum16 (frameHead id p) mode).isLt

end Sys2Proof.Machine

namespace Sys2Proof.Machine

/-! ### The byte sum (R112, R121) -/

/-- R112's running sum from any start. -/
theorem foldl_add_setWidth (s : List Byte) (acc : Half) :
    s.foldl (fun acc b => acc + b.setWidth 16) acc = acc + BitVec.ofNat 16 (s.map BitVec.toNat).sum := by
  induction s generalizing acc with
  | nil => simp
  | cons b s ih =>
    rw [List.foldl_cons, ih, List.map_cons, List.sum_cons, BitVec.ofNat_add, BitVec.ofNat_toNat, BitVec.add_assoc]

theorem sum16_eq_neg_sum (s : List Byte) : sum16 s = -(BitVec.ofNat 16 (s.map BitVec.toNat).sum) := by
  rw [sum16, byteSum, foldl_add_setWidth, BitVec.zero_add, BitVec.neg_eq_not_add]

/-- Settles O27, by `sum16_eq_neg_sum`. -/
theorem sum16NegatesTheByteSum : Obligations.Sum16NegatesTheByteSum := by
  refine ⟨sum16_eq_neg_sum, fun s => ?_, rfl⟩
  rw [sum16_eq_neg_sum, BitVec.add_left_neg]

/-- Settles O28: the exact sum has these two properties. -/
theorem sum16DependsOnTheMultiset : Obligations.Sum16DependsOnTheMultiset := by
  refine ⟨fun s t perm => ?_, fun s n => ?_⟩
  · rw [sum16_eq_neg_sum, sum16_eq_neg_sum, (perm.map BitVec.toNat).sum_eq]
  · simp [sum16_eq_neg_sum]

/-! ### Bit-serial reduction (R113, R118): both CRCs are one function of a width and a reflected polynomial -/

section Reduction

variable {w : Nat} (P : BitVec w)

/-- One bit step: the lowest bit leaves the register, and decides whether the polynomial is added. -/
def reduceBit (c : BitVec w) : BitVec w := if c.getLsbD 0 then (c >>> 1) ^^^ P else c >>> 1

/-- The register after one byte: eight bit steps on the register with the byte added. -/
def crcByte (c : BitVec w) (b : Byte) : BitVec w := (reduceBit P)^[8] (c ^^^ b.setWidth w)

theorem reduceBit_eq_xor (c : BitVec w) : reduceBit P c = (c >>> 1) ^^^ (if c.getLsbD 0 then P else 0#w) := by
  unfold reduceBit
  split <;> simp

theorem reduceBit_xor (c d : BitVec w) : reduceBit P (c ^^^ d) = reduceBit P c ^^^ reduceBit P d := by
  have selected : (if (c ^^^ d).getLsbD 0 then P else 0#w)
      = (if c.getLsbD 0 then P else 0#w) ^^^ (if d.getLsbD 0 then P else 0#w) := by
    cases hc : c.getLsbD 0 <;> cases hd : d.getLsbD 0 <;> simp [hc, hd]
  rw [reduceBit_eq_xor, reduceBit_eq_xor, reduceBit_eq_xor, selected, BitVec.ushiftRight_xor_distrib]
  ac_rfl

theorem iterate_reduceBit_xor (k : Nat) (c d : BitVec w) :
    (reduceBit P)^[k] (c ^^^ d) = (reduceBit P)^[k] c ^^^ (reduceBit P)^[k] d := by
  induction k generalizing c d with
  | zero => rfl
  | succ k ih => rw [Function.iterate_succ_apply, reduceBit_xor, ih]; rfl

theorem crcByte_xor (c d : BitVec w) (a b : Byte) :
    crcByte P (c ^^^ d) (a ^^^ b) = crcByte P c a ^^^ crcByte P d b := by
  have regroup : c ^^^ d ^^^ (a ^^^ b).setWidth w = (c ^^^ a.setWidth w) ^^^ (d ^^^ b.setWidth w) := by
    rw [BitVec.setWidth_xor]
    ac_rfl
  rw [crcByte, regroup, iterate_reduceBit_xor]
  rfl

/-- While the bits that leave are 0, the register is only shifted. -/
theorem iterate_reduceBit_of_low_zero (k : Nat) (c : BitVec w) (low : ∀ i < k, c.getLsbD i = false) :
    (reduceBit P)^[k] c = c >>> k := by
  induction k generalizing c with
  | zero => simp
  | succ k ih =>
    have shifted : reduceBit P c = c >>> 1 := if_neg (by simp [low 0 k.succ_pos])
    have rest : ∀ i < k, (c >>> 1).getLsbD i = false := fun i hi => by
      rw [BitVec.getLsbD_ushiftRight]
      exact low (1 + i) (by omega)
    rw [Function.iterate_succ_apply, shifted, ih _ rest, ← BitVec.shiftRight_add, Nat.add_comm]

/-- The register over a bytewise exclusive or, from an exclusive or. -/
theorem foldl_crcByte_zipWith_xor {s t : List Byte} (len : s.length = t.length) (c d : BitVec w) :
    (List.zipWith (· ^^^ ·) s t).foldl (crcByte P) (c ^^^ d) = s.foldl (crcByte P) c ^^^ t.foldl (crcByte P) d := by
  induction s generalizing t c d with
  | nil =>
    obtain rfl := List.length_eq_zero_iff.1 len.symm
    rfl
  | cons a s ih =>
    obtain ⟨b, t, rfl⟩ := List.exists_cons_of_length_eq_add_one len.symm
    simp only [List.zipWith_cons_cons, List.foldl_cons, crcByte_xor]
    exact ih (by simpa using len) _ _

/-- Three inputs of one length, all from the same start: an exclusive or of three equal starts is that start. -/
theorem foldl_crcByte_affine {s t u : List Byte} (st : s.length = t.length) (tu : t.length = u.length)
    (c : BitVec w) :
    (List.zipWith (· ^^^ ·) (List.zipWith (· ^^^ ·) s t) u).foldl (crcByte P) c
      = s.foldl (crcByte P) c ^^^ t.foldl (crcByte P) c ^^^ u.foldl (crcByte P) c := by
  have len : (List.zipWith (· ^^^ ·) s t).length = u.length := by simp [st, tu]
  have start : c = c ^^^ c ^^^ c := by simp
  conv_lhs => rw [start]
  rw [foldl_crcByte_zipWith_xor P len, foldl_crcByte_zipWith_xor P st]

variable {P} (top : P.msb = true)
include top

/-- The polynomial's top bit keeps the bit that leaves the register. -/
theorem msb_reduceBit (c : BitVec w) : (reduceBit P c).msb = c.getLsbD 0 := by
  cases hc : c.getLsbD 0 <;> simp [reduceBit_eq_xor, hc, top, BitVec.msb_ushiftRight]

theorem reduceBit_injective : Function.Injective (reduceBit P) := by
  intro c d same
  have lowest : c.getLsbD 0 = d.getLsbD 0 := by rw [← msb_reduceBit top, same, msb_reduceBit top]
  have others : c >>> 1 = d >>> 1 := by
    rw [reduceBit_eq_xor, reduceBit_eq_xor, lowest] at same
    exact BitVec.xor_left_inj _ |>.1 same
  refine BitVec.eq_of_getLsbD_eq fun i _ => ?_
  cases i with
  | zero => exact lowest
  | succ i => simpa [Nat.add_comm] using congrArg (·.getLsbD i) others

theorem crcByte_left_injective (b : Byte) : Function.Injective (crcByte P · b) := fun _ _ same =>
  (BitVec.xor_left_inj _).1 ((reduceBit_injective top).iterate 8 same)

theorem crcByte_right_injective (wide : 8 ≤ w) (c : BitVec w) : Function.Injective (crcByte P c) := fun a b same => by
  have bytes := (BitVec.xor_right_inj _).1 ((reduceBit_injective top).iterate 8 same)
  simpa [wide] using congrArg (BitVec.setWidth 8) bytes

theorem foldl_crcByte_injective (s : List Byte) : Function.Injective (s.foldl (crcByte P)) := by
  induction s with
  | nil => exact fun _ _ same => same
  | cons b s ih => exact ih.comp (crcByte_left_injective top b)

/-- The registers part at a changed byte and do not meet again. -/
theorem foldl_crcByte_ne_of_ne (wide : 8 ≤ w) (p q : List Byte) {a b : Byte} (h : a ≠ b) (c : BitVec w) :
    (p ++ a :: q).foldl (crcByte P) c ≠ (p ++ b :: q).foldl (crcByte P) c := by
  simp only [List.foldl_append, List.foldl_cons]
  exact (foldl_crcByte_injective top q).ne ((crcByte_right_injective top wide _).ne h)

end Reduction

/-! ### The CRCs as reductions -/

theorem crc32cBits_eq_iterate (k : Nat) (c : Word) : crc32cBits k c = (reduceBit crc32cPoly)^[k] c := by
  induction k generalizing c with
  | zero => rfl
  | succ k ih => exact ih (reduceBit crc32cPoly c)

theorem crc32cStep_eq_crcByte : crc32cStep = crcByte crc32cPoly := by
  funext c b
  exact crc32cBits_eq_iterate 8 _

/-- Taking the byte's bits one by one is adding them all first, but for the bits not yet taken. -/
theorem crc16Bits_eq_iterate (k : Nat) (c : Half) (t : Byte) :
    crc16Bits k c t = (reduceBit crc16Poly)^[k] (c ^^^ t.setWidth 16) ^^^ (t >>> k).setWidth 16 := by
  induction k generalizing c t with
  | zero => simp [crc16Bits]
  | succ k ih =>
    have bit : (if c.getLsbD 0 ^^ t.getLsbD 0 then (c >>> 1) ^^^ crc16Poly else c >>> 1) ^^^ (t >>> 1).setWidth 16
        = reduceBit crc16Poly (c ^^^ t.setWidth 16) := by
      have shift : (t >>> 1).setWidth 16 = t.setWidth 16 >>> 1 := by
        ext i hi
        simp
      have lowest : (c ^^^ t.setWidth 16).getLsbD 0 = (c.getLsbD 0 ^^ t.getLsbD 0) := by
        rw [BitVec.getLsbD_xor, BitVec.getLsbD_setWidth]
        rfl
      rw [reduceBit, lowest, BitVec.ushiftRight_xor_distrib, shift]
      split <;> ac_rfl
    rw [crc16Bits, ih, bit, ← BitVec.shiftRight_add, Nat.add_comm 1]
    rfl

theorem crc16Step_eq_crcByte : crc16Step = crcByte crc16Poly := by
  funext c b
  have taken : b >>> 8 = 0#8 := BitVec.ushiftRight_eq_zero (Nat.le_refl 8)
  rw [crc16Step, crc16Bits_eq_iterate, taken]
  exact BitVec.xor_zero

theorem crc32c_eq_foldl (s : List Byte) : crc32c s = ~~~(s.foldl (crcByte crc32cPoly) crc32cInit) := by
  rw [crc32c, crc32cStep_eq_crcByte]

theorem crc16Ccitt_eq_foldl (s : List Byte) :
    crc16Ccitt s = swapBytes (~~~(s.foldl (crcByte crc16Poly) crc16Init)) := by
  rw [crc16Ccitt, crc16Register, crc16Step_eq_crcByte]

/-! ### The final complement and swap keep both laws -/

theorem swapBytes_xor (r q : Half) : swapBytes (r ^^^ q) = swapBytes r ^^^ swapBytes q := by
  ext i hi
  rcases Nat.lt_or_ge i 8 with low | high
  · simp [swapBytes, low]
  · have inside : i - 8 < 8 := by omega
    simp [swapBytes, Nat.not_lt.2 high, inside]

theorem swapBytes_injective : Function.Injective swapBytes := by
  intro r q same
  have high : r.extractLsb' 8 8 = q.extractLsb' 8 8 := by rw [← swapBytes_low, same, swapBytes_low]
  have low : r.extractLsb' 0 8 = q.extractLsb' 0 8 := by rw [← swapBytes_high, same, swapBytes_high]
  apply BitVec.eq_of_toNat_eq
  rw [← le_leBytes_two r.isLt, ← le_leBytes_two q.isLt, leBytes_two_half, leBytes_two_half, low, high]

theorem not_xor_xor {w : Nat} (x y z : BitVec w) : ~~~(x ^^^ y ^^^ z) = ~~~x ^^^ ~~~y ^^^ ~~~z := by
  ext i hi
  simp

/-- Settles O30: the register is affine (`foldl_crcByte_affine`), and so are the complement and the swap. -/
theorem crcsAreAffine : Obligations.CrcsAreAffine := by
  intro s t u st tu
  simp only [crc16Ccitt_eq_foldl, crc32c_eq_foldl, foldl_crcByte_affine _ st tu, not_xor_xor, swapBytes_xor, and_self]

/-- Settles O29: the registers differ at the end (`foldl_crcByte_ne_of_ne`), and so do their complements and swaps. -/
theorem crcsDetectAChangedByte : Obligations.CrcsDetectAChangedByte := by
  intro p q a b h
  rw [crc16Ccitt_eq_foldl, crc16Ccitt_eq_foldl, crc32c_eq_foldl, crc32c_eq_foldl]
  constructor
  · have registers := foldl_crcByte_ne_of_ne (P := crc16Poly) (by decide) (by decide) p q h crc16Init
    exact swapBytes_injective.ne (BitVec.not_inj.ne.2 registers)
  · have registers := foldl_crcByte_ne_of_ne (P := crc32cPoly) (by decide) (by decide) p q h crc32cInit
    exact BitVec.not_inj.ne.2 registers

/-! ### The nibble table (R120) -/

theorem crc32cTable_getD (n : Nat) (h : n < 16) : crc32cTable.getD n 0#32 = crc32cBits 4 (BitVec.ofNat 32 n) := by
  revert n
  decide

/-- Four bit steps: the high bits are shifted down, and the low four select the table's entry. -/
theorem crc32cNibble_eq_crc32cBits (c : Word) : crc32cNibble c = crc32cBits 4 c := by
  have parts : c = (c >>> 4) <<< 4 ^^^ (c.extractLsb' 0 4).setWidth 32 := by
    ext i hi
    rcases Nat.lt_or_ge i 4 with low | high
    · simp [low, BitVec.getLsbD_eq_getElem hi]
    · simp [hi, Nat.not_lt.2 high, Nat.add_sub_cancel' high]
  have high : (reduceBit crc32cPoly)^[4] ((c >>> 4) <<< 4) = c >>> 4 := by
    rw [iterate_reduceBit_of_low_zero _ _ _ (by simp; omega)]
    ext i hi
    simpa using BitVec.lt_of_getLsbD
  rw [crc32cNibble, crc32cTable_getD _ (c.extractLsb' 0 4).isLt, crc32cBits_eq_iterate, crc32cBits_eq_iterate]
  conv_rhs => rw [parts, iterate_reduceBit_xor, high, ← BitVec.ofNat_toNat]

theorem crc32cNibbleStep_eq_crc32cStep : crc32cNibbleStep = crc32cStep := by
  funext c b
  rw [crc32cNibbleStep, crc32cNibble_eq_crc32cBits, crc32cNibble_eq_crc32cBits]
  rfl

theorem crc32cByNibbles_eq_crc32c (s : List Byte) : crc32cByNibbles s = crc32c s := by
  rw [crc32cByNibbles, crc32cNibbleStep_eq_crc32cStep, crc32c]

/-- Settles O31: two nibbles of the table form are the eight bit steps of a byte; the table itself is evaluated. -/
theorem nibbleTableFormAgrees : Obligations.NibbleTableFormAgrees :=
  ⟨crc32cByNibbles_eq_crc32c, by decide, rfl⟩

/-- Settles O32: the CRC-32C is evaluated in its table form (R120). -/
theorem crcCheckValues : Obligations.CrcCheckValues := by
  refine ⟨by decide +kernel, ?_, by decide, by decide⟩
  rw [← crc32cByNibbles_eq_crc32c]
  decide

end Sys2Proof.Machine

namespace Sys2Proof

/-! ### Bit 8 of a command word is `B[0]` (R81, R82) -/

theorem fieldB_getLsbD_zero (w : Word) : (fieldB w).getLsbD 0 = w.getLsbD 8 := by simp [fieldB]

theorem srcOf_eq_ite (w : Word) : srcOf w = if w.getLsbD 8 then .fb else .pb := by
  rw [srcOf, fieldB_getLsbD_zero]
  cases w.getLsbD 8 <;> rfl

theorem modeOf_eq_ite (w : Word) : modeOf w = if w.getLsbD 8 then .crc16Ccitt else .sumComplement := by
  rw [modeOf, fieldB_getLsbD_zero]
  cases w.getLsbD 8 <;> rfl

end Sys2Proof

namespace Sys2Proof.Machine

/-! ### The commands of the checksum engine (R111, R114 to R119) -/

/-- Settles O21: the opcode selects SETMODE and bit 8 its mode; its next state is its definition's. -/
theorem setmodeSetsTheMode : Obligations.SetmodeSetsTheMode := by
  refine ⟨fun w opc => ?_, fun _ _ => rfl⟩
  rw [← modeOf_eq_ite]
  exact decode_of_opcode (i := .setmode (modeOf w)) opc

theorem withSelected_pb {s : State} (legal : s.plen.toNat ≤ 4096) (k : List Byte → Outcome) :
    withSelected .pb s k = k ((List.range s.plen.toNat).map s.pb.read) := by
  rw [← payload_eq]
  exact if_pos legal

theorem withSelected_fb {s : State} (legal : s.flen.toNat ≤ 4103) (k : List Byte → Outcome) :
    withSelected .fb s k = k ((List.range s.flen.toNat).map s.fb.read) := by
  rw [← frameBytes_eq]
  exact if_pos legal

/-- Settles O33: the opcode and bit 8 select the command, and a legal fill count hands it the valid bytes. -/
theorem checksumCommands : Obligations.ChecksumCommands := by
  unfold Obligations.ChecksumCommands
  simp only [← srcOf_eq_ite]
  refine ⟨fun w => decode_of_opcode (i := .sum16 (srcOf w)), fun w => decode_of_opcode (i := .crc16 (srcOf w)),
    fun w => decode_of_opcode (i := .csum16 (srcOf w)), fun w => decode_of_opcode (i := .crc32c (srcOf w)),
    fun src s bytes plen flen valid => ?_⟩
  have selected (k : List Byte → Outcome) : withSelected src s k = k bytes := by
    subst valid
    cases src with
    | pb => exact withSelected_pb plen k
    | fb => exact withSelected_fb flen k
  simp only [exec, execSum16, execCrc16, execCsum16, execCrc32c, selected]
  exact ⟨rfl, rfl, rfl, rfl⟩

end Sys2Proof.Machine

namespace Sys2Proof.Machine

/-! ### Little-endian operands (R10, R64) -/

/-- The little-endian bytes of a word of any width are its slices of eight bits, the low one first (R10). -/
theorem leBytes_toNat {m : Nat} (n : Nat) (w : BitVec m) :
    leBytes n w.toNat = (List.range n).map fun k => w.extractLsb' (8 * k) 8 := by
  induction n generalizing w with
  | zero => rfl
  | succ n ih =>
    have low : BitVec.ofNat 8 w.toNat = w.extractLsb' (8 * 0) 8 := by simp [BitVec.extractLsb']
    have high : w.toNat / 256 = (w >>> 8).toNat := by simp [Nat.shiftRight_eq_div_pow]
    have slices (k : Nat) : (w >>> 8).extractLsb' (8 * k) 8 = w.extractLsb' (8 * (k + 1)) 8 := by
      ext i
      simp [Nat.mul_add, Nat.add_comm, Nat.add_left_comm]
    rw [leBytes, high, ih, List.range_succ_eq_map, List.map_cons, List.map_map, low]
    exact congrArg _ (List.map_congr_left fun k _ => slices k)

theorem leBytes_four_word (w : Word) :
    leBytes 4 w.toNat = [w.extractLsb' 0 8, w.extractLsb' 8 8, w.extractLsb' 16 8, w.extractLsb' 24 8] :=
  leBytes_toNat 4 w

/-- ARG0 is the low word of the product id (R83). -/
theorem productId_low (s : State) {k : Nat} (h : k + 8 ≤ 32) :
    (productId s).extractLsb' k 8 = s.arg0.extractLsb' k 8 := by
  ext i hi
  have low : k + i < 32 := by omega
  have wide : k + i < 48 := by omega
  simp [productId, low, wide]

/-- ARG1[15:0] stands above it (R83). -/
theorem productId_high (s : State) {k : Nat} (h : k + 8 ≤ 16) :
    (productId s).extractLsb' (32 + k) 8 = s.arg1.extractLsb' k 8 := by
  ext i hi
  have wide : 32 + (k + i) < 48 := by omega
  have inside : k + i < 16 := by omega
  simp [productId, wide, inside, Nat.add_assoc]

theorem leBytes_productId (s : State) :
    leBytes 6 (productId s).toNat = leBytes 4 s.arg0.toNat ++ [s.arg1.extractLsb' 0 8, s.arg1.extractLsb' 8 8] := by
  rw [leBytes_four_word, ← productId_high s (k := 0) (by decide), ← productId_high s (k := 8) (by decide),
    ← productId_low s (k := 0) (by decide), ← productId_low s (k := 8) (by decide),
    ← productId_low s (k := 16) (by decide), ← productId_low s (k := 24) (by decide)]
  exact leBytes_toNat 6 (productId s)

/-! ### The builders (R132 to R154) -/

/-- A payload that is too long is LENGTH, with nothing else written (R132). -/
theorem emit_of_long (id : Byte) {p : List Byte} (s : State) (h : 4096 < p.length) :
    emit id p s = .next { s with err := 0x0003#16 } := if_pos h

/-- A builder of the payload buffer has room for all of it (R134, R140, R142). -/
theorem emit_payload_frameBuilt (id : Byte) {s : State} (legal : s.plen.toNat ≤ 4096) :
    ∃ t, emit id (payload s) s = .next t ∧ s.frameBuilt t id ((List.range s.plen.toNat).map s.pb.read) := by
  rw [← payload_eq]
  exact emit_frameBuilt id s (by rwa [length_payload])

/-- Settles O37: each of the three emits the payload buffer, which fits. -/
theorem payloadBuildersEmit : Obligations.PayloadBuildersEmit := by
  refine ⟨fun w => decode_of_opcode (i := .build (fieldB w)), fun _ => decode_of_opcode (i := .bsend),
    fun _ => decode_of_opcode (i := .bsendnr), fun s id legal => ?_⟩
  have emits (id : Byte) := emit_payload_frameBuilt id legal
  exact ⟨emits id, emits s.config.cmdSend, emits s.config.cmdSendNr⟩

/-- Settles O38: the payloads are slices of the argument registers, at most nine bytes. -/
theorem argumentBuildersEmit : Obligations.ArgumentBuildersEmit := by
  refine ⟨fun _ => decode_of_opcode (i := .benter), fun _ => decode_of_opcode (i := .bexit),
    fun _ => decode_of_opcode (i := .berase), fun w => decode_of_opcode (i := .bvchk (fieldB w)),
    fun w => decode_of_opcode (i := .bmeta (fieldB w)), fun s app a b ha hb => ?_⟩
  have erase : erasePayload s = a := (leBytes_four_word s.arg0).trans ha.symm
  have enter : enterPayload s = if s.arg1.extractLsb' 0 16 = 0#16 then a else a ++ b.take 2 := by
    rw [enterPayload, leBytes_productId, ← erase, hb]
    rfl
  have metadata : metaPayload app s = [app] ++ a ++ b := by
    rw [metaPayload, leBytes_four_word, leBytes_four_word, ha, hb]
    rfl
  have la : a.length = 4 := congrArg List.length ha
  have lb : b.length = 4 := congrArg List.length hb
  simp only [exec, execBenter, execBexit, execBerase, execBvchk, execBmeta, erase, enter, metadata]
  refine ⟨emit_frameBuilt _ s ?_, emit_frameBuilt _ s (by decide), emit_frameBuilt _ s ?_, emit_frameBuilt _ s ?_,
    emit_frameBuilt _ s ?_⟩
  · split <;> simp [la, lb]
  · simp [la]
  · simp
  · simp [la, lb]

/-- Settles O39: the row payload is eight bytes longer than the payload buffer. -/
theorem rowBuildersEmit : Obligations.RowBuildersEmit := by
  refine ⟨fun _ => decode_of_opcode (i := .bprog), fun _ => decode_of_opcode (i := .bverify), fun s head hh => ?_⟩
  have row : rowPayload s = head ++ (List.range s.plen.toNat).map s.pb.read := by
    rw [rowPayload, leBytes_four_word, leBytes_four_word, payload_eq, hh]
    rfl
  have length : (rowPayload s).length = s.plen.toNat + 8 := by
    simp only [rowPayload, List.length_append, length_leBytes, length_payload]
    omega
  rw [← row]
  exact ⟨fun fits => ⟨emit_frameBuilt _ s (by omega), emit_frameBuilt _ s (by omega)⟩,
    fun long => ⟨emit_of_long _ s (by omega), emit_of_long _ s (by omega)⟩⟩

theorem ivLength_iff {n : Nat} : ivLength n = true ↔ n = 0 ∨ n = 8 ∨ n = 16 := by
  simp [ivLength, or_assoc]

/-- Settles O40: the IV length is tested first, and a legal one fits a frame. -/
theorem beivFramesLegalIvs : Obligations.BeivFramesLegalIvs := by
  refine ⟨fun _ => decode_of_opcode (i := .beiv), fun s legal => ?_, fun s h0 h8 h16 => ?_⟩
  · have emits : exec .beiv s = emit s.config.cmdSetEiv (payload s) s := if_pos (ivLength_iff.2 legal)
    rw [emits]
    exact emit_payload_frameBuilt _ (by omega)
  · exact if_neg (mt ivLength_iff.1 (by omega))

/-! ### A frame in FB parses back (R156) -/

/-- A checksum is the two bytes that hold it (R64). -/
theorem toNat_eq_bytes (c : Half) : (c.extractLsb' 0 8).toNat + 256 * (c.extractLsb' 8 8).toNat = c.toNat := by
  rw [← le_two, ← leBytes_two_half]
  exact le_leBytes_two c.isLt

theorem drop_frame (id : Byte) (p : List Byte) (mode : ChecksumMode) :
    (frame id p mode).drop (4 + p.length) = leBytes 2 (checksum16 (frameHead id p) mode).toNat ++ [stopByte] := by
  rw [frame_eq]
  exact List.drop_left' (by rw [length_frameHead, Nat.add_comm])

/-- FB holds the frame of `id` and `p`, built in the current mode. -/
def State.holdsFrame (s : State) (id : Byte) (p : List Byte) : Prop :=
  s.flen.toNat = p.length + 7 ∧ ∀ a < p.length + 7, some (s.fb.read a) = (frame id p s.mode)[a]?

section HeldFrame

variable {s : State} {id : Byte} {p : List Byte}

theorem State.frameBuilt.holdsFrame {t : State} (h : s.frameBuilt t id p) : t.holdsFrame id p := by
  obtain ⟨same, flen, fb⟩ := h
  have mode : t.mode = s.mode := by rw [same]
  refine ⟨flen, fun a ha => ?_⟩
  rw [fb, mode, List.getElem?_eq_getElem (by rwa [length_frame]), Option.getD_some]

theorem State.holdsFrame.read (h : s.holdsFrame id p) {a : Nat} {b : Byte} (hb : (frame id p s.mode)[a]? = some b) :
    s.fb.read a = b := by
  have inside : a < p.length + 7 := by
    rw [← length_frame id p s.mode]
    exact (List.getElem?_eq_some_iff.1 hb).1
  exact Option.some.inj ((h.2 a inside).trans hb)

theorem State.holdsFrame.read_one (h : s.holdsFrame id p) : s.fb.read 1 = id := h.read rfl

theorem State.holdsFrame.wellMarked (h : s.holdsFrame id p) (fits : p.length ≤ 4096) : s.wellMarked p.length := by
  have low : s.fb.read 2 = BitVec.ofNat 8 p.length := h.read rfl
  have high : s.fb.read 3 = BitVec.ofNat 8 (p.length / 256) := h.read rfl
  refine ⟨h.1, h.read rfl, ?_, ?_⟩
  · rw [low, high, ← le_two, ← leBytes_two]
    exact le_leBytes_two (by omega)
  · have last : s.flen.toNat - 1 = 6 + p.length := by rw [h.1]; omega
    rw [last]
    exact h.read (frame_stop id p s.mode)

/-- The bytes in front of the checksum field are the frame's head. -/
theorem State.holdsFrame.head (h : s.holdsFrame id p) :
    (List.range (4 + p.length)).map s.fb.read = frameHead id p := by
  have length : 4 + p.length = (frameHead id p).length := by rw [length_frameHead, Nat.add_comm]
  rw [← Memory.readBytes_zero, length]
  refine Memory.readBytes_eq_of_reads fun k hk => ?_
  rw [← length] at hk
  rw [Nat.zero_add, h.2 k (by omega), ← take_frame id p s.mode, List.getElem?_take_of_lt hk]

theorem State.holdsFrame.checksumRight (h : s.holdsFrame id p) : s.checksumRight p.length := by
  obtain ⟨low, high⟩ := frame_checksum_bytes id p s.mode
  rw [State.checksumRight, h.head, h.read low, h.read high]
  exact toNat_eq_bytes _

end HeldFrame

/-- A checked parse of a frame that passes every test of R161. -/
theorem checked_pass {s : State} {d : Half} {e : Byte} (hf : s.flen.toNat ≤ 4103) (he : s.fb.read 1 = e)
    (hm : s.wellMarked d.toNat) (hc : s.config.parseChecksChecksum = true → s.checksumRight d.toNat)
    (k : State → State) : checked d e s k = complete (k (s.setStatus e)) := by
  rw [checked, check_pass hf he hm hc]

/-- PTRY on a self-consistent frame, whatever stands behind it (R177). -/
theorem execPtry_pass {s : State} (hf : s.flen.toNat ≤ 4103) (inside : declaredLength s.fb + 7 ≤ s.flen.toNat)
    (good : selfConsistent s = true) : execPtry s = complete (s.setStatus (s.fb.read 1)) := by
  have long : ¬ s.flen.toNat < baseCmdSize := by rw [baseCmdSize]; omega
  exact (if_neg long).trans ((if_neg (Nat.not_lt.2 hf)).trans ((if_neg (Nat.not_lt.2 inside)).trans (if_pos good)))

/-- A frame that is marked and checksummed right over the whole of FB is self-consistent (R161, R177). -/
theorem execPtry_of_wellMarked {s : State} {d : Nat} (hf : s.flen.toNat ≤ 4103) (hm : s.wellMarked d)
    (hc : s.checksumRight d) : execPtry s = complete (s.setStatus (s.fb.read 1)) := by
  obtain ⟨hn, start, declared, stop⟩ := hm
  rw [← declaredLength_eq] at declared
  have last : s.flen.toNat - 1 = declaredLength s.fb + 6 := by omega
  rw [last] at stop
  rw [← declared] at hc
  exact execPtry_pass hf (by omega) (selfConsistent_iff.2 ⟨start, stop, hc⟩)

/-- Settles O41: the layout is read off the frame, and a held frame passes every test of the parse commands. -/
theorem builtFramesParseBack : Obligations.BuiltFramesParseBack := by
  refine ⟨fun id p mode f fits hf => ?_, fun s id p fits flen bytes => ?_⟩
  · subst hf
    refine ⟨length_frame id p mode, rfl, ?_, ?_, ?_⟩
    · have last : (frame id p mode).length - 1 = 6 + p.length := by rw [length_frame]; omega
      rw [last]
      exact frame_stop id p mode
    · exact le_leBytes_two (v := p.length) (by omega)
    · rw [drop_frame, take_frame]
      exact le_leBytes_two (checksum16 (frameHead id p) mode).isLt
  · have held : s.holdsFrame id p := ⟨flen, bytes⟩
    have legal : s.flen.toNat ≤ 4103 := by omega
    have marked := held.wellMarked fits
    have d : (BitVec.ofNat 16 p.length).toNat = p.length := by
      rw [BitVec.toNat_ofNat]
      exact Nat.mod_eq_of_lt (by omega)
    refine ⟨?_, ?_, ?_⟩
    · exact checked_pass legal held.read_one (by rwa [d]) (fun _ => by rw [d]; exact held.checksumRight) _
    · refine (execPtry_of_wellMarked legal marked held.checksumRight).trans ?_
      rw [held.read_one]
      rfl
    · rintro rfl rfl
      exact checked_pass (d := 0#16) legal held.read_one marked (fun _ => held.checksumRight) _

/-- Settles O42: BUILD leaves its frame in FB, and that frame parses back. -/
theorem buildThenParseRoundTrips : Obligations.BuildThenParseRoundTrips := by
  intro s id legal
  have length : (payload s).length = s.plen.toNat := length_payload s
  obtain ⟨t, built, framed⟩ := emit_frameBuilt id (p := payload s) s (by omega)
  obtain ⟨flen, bytes⟩ := framed.holdsFrame
  obtain ⟨pcustom, ptry, -⟩ := builtFramesParseBack.2 t id (payload s) (by omega) flen bytes
  rw [length] at pcustom
  exact ⟨t, built, pcustom, ptry⟩

end Sys2Proof.Machine

namespace Sys2Proof.Machine

/-! ### Little-endian fields as words (R64, R90) -/

/-- A word's low byte stands first (R64). -/
theorem ofNat_le_cons (w : Nat) (b : Byte) (bs : List Byte) :
    BitVec.ofNat (w + 8) (le (b :: bs)) = BitVec.ofNat w (le bs) ++ b := by
  apply BitVec.eq_of_toNat_eq
  have byte : b.toNat < 2 ^ 8 := b.isLt
  have low : le (b :: bs) % 2 ^ 8 = b.toNat := by rw [le]; omega
  have high : le (b :: bs) / 2 ^ 8 = le bs := by rw [le]; omega
  calc (BitVec.ofNat (w + 8) (le (b :: bs))).toNat
      = le (b :: bs) % (2 ^ 8 * 2 ^ w) := by rw [BitVec.toNat_ofNat, Nat.pow_add, Nat.mul_comm]
    _ = 2 ^ 8 * (le bs % 2 ^ w) + b.toNat := by rw [Nat.mod_mul, low, high, Nat.add_comm]
    _ = (BitVec.ofNat w (le bs) ++ b).toNat := by
      rw [Nat.two_pow_add_eq_or_of_lt byte, BitVec.toNat_append, BitVec.toNat_ofNat, Nat.shiftLeft_eq, Nat.mul_comm]

theorem ofNat_le_singleton (b : Byte) : BitVec.ofNat 8 (le [b]) = b := by simp [le]

theorem ofNat_le_three (a b c : Byte) : BitVec.ofNat 24 (le [a, b, c]) = c ++ b ++ a := by
  rw [ofNat_le_cons 16, ofNat_le_cons 8, ofNat_le_singleton]

theorem ofNat_le_four (a b c d : Byte) : BitVec.ofNat 32 (le [a, b, c, d]) = d ++ c ++ b ++ a := by
  rw [ofNat_le_cons 24, ofNat_le_three]

theorem readBytes_three (m : Memory) (a : Nat) : m.readBytes a 3 = [m.read a, m.read (a + 1), m.read (a + 2)] := rfl

theorem readBytes_four (m : Memory) (a : Nat) :
    m.readBytes a 4 = [m.read a, m.read (a + 1), m.read (a + 2), m.read (a + 3)] := rfl

/-! ### The outputs of PENTER and PVCHK (R90, R91) -/

/-- The outputs of PENTER, byte by byte. -/
def State.takeEnterFields (s : State) : State :=
  { s with
    siid := s.fb.read 7 ++ s.fb.read 6 ++ s.fb.read 5 ++ s.fb.read 4
    sirev := s.fb.read 8
    blver := s.fb.read 11 ++ s.fb.read 10 ++ s.fb.read 9 }

/-- The output of PVCHK. -/
def State.takeValidity (s : State) : State := { s with ckvalid := decide (s.fb.read 4 ≠ 0x00#8) }

theorem exec_penter (s : State) : exec .penter s = checked 8#16 0#8 s State.takeEnterFields := by
  simp only [exec, execPenter, readBytes_four, readBytes_three, ofNat_le_four, ofNat_le_three]
  rfl

theorem checksumValid_eq (b : Byte) : checksumValid b = decide (b ≠ 0x00#8) := by
  rw [Bool.eq_iff_iff]
  simp [checksumValid]

theorem exec_pvchk (s : State) : exec .pvchk s = checked 1#16 0#8 s State.takeValidity := by
  simp only [exec, execPvchk, checksumValid_eq]
  rfl

theorem exec_pcustom (st : Byte) (d : Half) (s : State) : exec (.pcustom st d) s = checked d st s id := rfl

theorem exec_pdefault (s : State) : exec .pdefault s = exec (.pcustom 0x00#8 0#16) s := rfl

/-! ### How a checked parse fails (R161, R162) -/

section Checked

variable {s : State} {d : Half} {e : Byte}

theorem checked_fails {c : ResultCode} (h : check d e s = .fails c) (k : State → State) :
    checked d e s k = raise c s := by
  rw [checked, h]

theorem checked_failsWith {c : ResultCode} {st : Byte} (h : check d e s = .failsWith c st) (k : State → State) :
    checked d e s k = raise c (s.setStatus st) := by
  rw [checked, h]

theorem statusFailure_of_ne {st : Byte} (h : st ≠ 0#8) : statusFailure st = .failsWith (.btldr st) st := if_pos h

theorem statusFailure_zero : statusFailure 0#8 = .failsWith .response 0#8 := rfl

/-- A checked parse that does not end with OK wrote STATUS and ERR at most, and would have done so whatever its outputs
on success are. -/
theorem checked_of_err_ne_ok {t : State} {k : State → State} (h : checked d e s k = .next t) (failed : t.err ≠ 0#16) :
    (∃ st c, t = (s.setStatus st).setErr c) ∧ ∀ k', checked d e s k' = .next t := by
  cases hc : check d e s with
  | pass st =>
    rw [checked, hc] at h
    obtain rfl := complete_eq_next.1 h
    exact absurd rfl failed
  | fails c =>
    rw [checked_fails hc] at h
    exact ⟨⟨s.status, c, raise_eq_next.1 h⟩, fun k' => (checked_fails hc k').trans h⟩
  | failsWith c st =>
    rw [checked_failsWith hc] at h
    exact ⟨⟨st, c, raise_eq_next.1 h⟩, fun k' => (checked_failsWith hc k').trans h⟩
  | badAddress =>
    rw [checked, hc] at h
    cases h

end Checked

/-- Settles O43: the six cases are the steps of the check in order (`check_length` to `check_pass`). -/
theorem pcustomReportsTheFirstFailure : Obligations.PcustomReportsTheFirstFailure := by
  refine ⟨fun _ => decode_of_opcode (i := .pcustom 0#8 0#16), fun s st d legal => ⟨fun length => ?_,
    fun length other nonzero => ?_, fun length other zero => ?_, fun length same bad => ?_,
    fun same marked checks wrong => ?_, fun same marked right => ?_⟩⟩
  · exact checked_fails (check_length length) id
  · exact checked_failsWith ((check_status legal length other).trans (statusFailure_of_ne nonzero)) id
  · have status := check_status legal length other
    rw [zero, statusFailure_zero] at status
    exact checked_failsWith status id
  · exact checked_fails (check_markers legal length same bad) id
  · exact checked_fails (check_checksum legal same marked checks wrong) id
  · exact checked_pass legal same marked right id

/-- BTLDR has a tag that no other parse code has (R242). -/
theorem btldr_bits_ne {c : Half} (untagged : c.getLsbD 14 = false) (st : Byte) : (ResultCode.btldr st).bits ≠ c := by
  rintro rfl
  simp [ResultCode.bits, btldrTag] at untagged

/-- A frame of data length `d` that is marked right fits FB where `d` does (R29). -/
theorem State.wellMarked.flen_le {s : State} {d : Nat} (h : s.wellMarked d) (fits : d ≤ 4096) : s.flen.toNat ≤ 4103 := by
  have length := h.1
  omega

/-- Settles O44: both commands are the check of length 0 and status 0, which reports RESPONSE only for an expected
status that is not 0 (`checked_cases`). -/
theorem pdefaultAcceptsAnEmptyResponse : Obligations.PdefaultAcceptsAnEmptyResponse := by
  refine ⟨fun _ => decode_of_opcode (i := .pdefault), fun s status marked right => ?_, exec_pdefault, fun s t h => ?_⟩
  · exact checked_pass (d := 0#16) (marked.flen_le (by decide)) status marked right id
  · rw [exec_pdefault, exec_pcustom] at h
    rcases checked_cases 0#16 0#8 s id with e | ⟨c, rfl | rfl, e⟩ | ⟨st, -, e⟩ | ⟨nonzero, -⟩ | ⟨e, -⟩
    · obtain rfl := complete_eq_next.1 (e.symm.trans h)
      exact (by decide : ResultCode.ok.bits ≠ 0x0010#16)
    · obtain rfl := raise_eq_next.1 (e.symm.trans h)
      exact (by decide : ResultCode.length.bits ≠ 0x0010#16)
    · obtain rfl := raise_eq_next.1 (e.symm.trans h)
      exact (by decide : ResultCode.data.bits ≠ 0x0010#16)
    · obtain rfl := raise_eq_next.1 (e.symm.trans h)
      exact btldr_bits_ne rfl st
    · exact absurd rfl nonzero
    · cases e.symm.trans h

/-- Settles O45: the outputs are read off the frame on success, and a failing check never comes to them
(`checked_of_err_ne_ok`). -/
theorem penterExtractsTheFields : Obligations.PenterExtractsTheFields := by
  refine ⟨fun _ => decode_of_opcode (i := .penter), fun s status marked right => ?_, fun s t h failed => ?_⟩
  · rw [exec_penter]
    exact checked_pass (d := 8#16) (marked.flen_le (by decide)) status marked right _
  · rw [exec_penter] at h
    obtain ⟨⟨st, c, rfl⟩, same⟩ := checked_of_err_ne_ok h failed
    exact ⟨rfl, rfl, rfl, same id⟩

/-- Settles O46: the output is read off the frame on success, and a failing check never comes to it
(`checked_of_err_ne_ok`). -/
theorem pvchkReportsValidity : Obligations.PvchkReportsValidity := by
  refine ⟨fun _ => decode_of_opcode (i := .pvchk), fun s status marked right => ?_, fun s t h failed => ?_⟩
  · rw [exec_pvchk]
    exact checked_pass (d := 1#16) (marked.flen_le (by decide)) status marked right _
  · rw [exec_pvchk] at h
    obtain ⟨⟨st, c, rfl⟩, same⟩ := checked_of_err_ne_ok h failed
    exact ⟨rfl, same id⟩

/-- PTRY on anything but a frame that fits and is self-consistent (R177). -/
theorem execPtry_unknown {s : State} (hf : s.flen.toNat ≤ 4103)
    (bad : ¬ (declaredLength s.fb + 7 ≤ s.flen.toNat ∧ selfConsistent s = true)) : execPtry s = raise .unknown s := by
  unfold execPtry
  split_ifs with short past beyond good
  · rfl
  · exact absurd hf (Nat.not_le.2 past)
  · rfl
  · exact absurd ⟨Nat.not_lt.1 beyond, good⟩ bad
  · rfl

/-- Settles O47: the tests are that the declared frame fits and that it is self-consistent (`selfConsistent_iff`). -/
theorem ptryTakesAConsistentStatus : Obligations.PtryTakesAConsistentStatus := by
  refine ⟨fun _ => decode_of_opcode (i := .ptry), fun s d legal declared => ?_⟩
  rw [← declaredLength_eq] at declared
  subst declared
  refine ⟨fun _ inside start stop right => ?_, fun bad => ?_⟩
  · exact execPtry_pass legal inside (selfConsistent_iff.2 ⟨start, stop, right⟩)
  · refine execPtry_unknown legal ?_
    rintro ⟨inside, good⟩
    obtain ⟨start, stop, right⟩ := selfConsistent_iff.1 good
    rcases bad with short | beyond | noStart | noStop | wrong
    · omega
    · omega
    · exact noStart start
    · exact noStop stop
    · exact wrong right

end Sys2Proof.Machine

namespace Sys2Proof.Machine

/-! ### How an RREAD ends, from how its reads end (R191, R192, R197 to R199) -/

section Rread

variable {s t : State} {size : Half} {w : List Byte} {e : Word} {rest : List TEvent} {sizes : List Nat} {u : Transport}

theorem State.not_fits_iff : ¬ s.fits size ↔ size = 0#16 ∨ 4103 < s.flen.toNat + size.toNat := by
  rw [State.fits, not_and_or, not_ne_iff, Nat.not_le]

theorem exec_rread_of_not_fits (h : ¬ s.fits size) : exec (.rread size) s = .next { s with err := 0x0003#16 } := by
  rcases State.not_fits_iff.1 h with empty | long
  · exact if_pos empty
  · exact ite_eq_left_iff.2 fun _ => if_pos long

theorem exec_rread_of_fits (fits : s.fits size) :
    exec (.rread size) s = finishRead size.toNat s (resync s.config.filler s.pkt size.toNat s.transport) :=
  (if_neg fits.1).trans (if_neg (Nat.not_lt.2 fits.2))

theorem pktAfter_eq_false_iff : pktAfter w = false ↔ w.getLast? = some 0x17#8 := by simp [pktAfter, stopByte]

theorem Memory.read_writeBytes_outside (m : Memory) {a x : Nat} {bytes : List Byte}
    (out : x < a ∨ a + bytes.length ≤ x) : (m.writeBytes a bytes).read x = m.read x := by
  rw [read_writeBytes]
  split
  · rfl
  · rw [List.getElem?_eq_none (by omega), Option.getD_none]

/-- A complete window is a successful read of it. -/
theorem finishRead_window (fits : s.fits size) (len : w.length = size.toNat)
    (reads : u.reads = s.transport.reads ++ sizes) :
    ∃ t, finishRead size.toNat s (.window w, u) = .next t ∧ t.transport = u ∧
      s.windowRead t w u.stream sizes := by
  obtain ⟨rest, _⟩ := u
  subst reads
  exact ⟨_, rfl, rfl, rfl, (toNat_fill fits.2).trans (by rw [len]), pktAfter_eq_false_iff,
    Memory.read_writeBytes _ _ _⟩

/-- A window that is lost is a failed read. -/
theorem readFailed_loseWindow (code : ResultCode) (n : Nat) (reads : u.reads = s.transport.reads ++ sizes) :
    s.readFailed (State.setErr code (({ s with terr := e }.loseWindow s.flen.toNat n).setTransport u)) n code.bits e
      u.stream sizes := by
  obtain ⟨rest, _⟩ := u
  subst reads
  exact ⟨rfl, fun a out => Memory.read_writeBytes_outside _ (by simpa using out)⟩

theorem rread_windowRead (fits : s.fits size) (len : w.length = size.toNat)
    (h : resync s.config.filler s.pkt size.toNat s.transport = (.window w, ⟨rest, s.transport.reads ++ sizes⟩)) :
    ∃ t, exec (.rread size) s = .next t ∧ s.windowRead t w rest sizes := by
  rw [exec_rread_of_fits fits, h]
  obtain ⟨t, ht, -, read⟩ := finishRead_window (u := ⟨rest, _⟩) fits len rfl
  exact ⟨t, ht, read⟩

theorem rread_comm (fits : s.fits size)
    (h : resync s.config.filler s.pkt size.toNat s.transport = (.comm e, ⟨rest, s.transport.reads ++ sizes⟩)) :
    ∃ t, exec (.rread size) s = .next t ∧ s.readFailed t size.toNat 0x2000#16 e rest sizes := by
  rw [exec_rread_of_fits fits, h]
  exact ⟨_, rfl, readFailed_loseWindow .comm _ rfl⟩

theorem rread_timeout (fits : s.fits size)
    (h : resync s.config.filler s.pkt size.toNat s.transport = (.timeout, ⟨rest, s.transport.reads ++ sizes⟩)) :
    ∃ t, exec (.rread size) s = .next t ∧ s.readFailed t size.toNat 0x0011#16 s.terr rest sizes := by
  rw [exec_rread_of_fits fits, h]
  exact ⟨_, rfl, readFailed_loseWindow .timeout _ rfl⟩

/-- Everything an RREAD that fits can do: its reads are of the sizes of R200, and it reads a window, times out, waits,
or ends at a transport failure. -/
theorem exec_rread_cases (fits : s.fits size) (h : exec (.rread size) s = .next t) :
    ∃ issued, issuedShape s.pkt size.toNat issued ∧ t.transport.reads = s.transport.reads ++ issued ∧
      ∃ bytes : List Byte,
        (s.transport.stream = bytes.map TEvent.byte ++ t.transport.stream ∧
          ((∃ w, w.length = size.toNat ∧ s.windowRead t w t.transport.stream issued) ∨
            s.readFailed t size.toNat 0x0011#16 s.terr t.transport.stream issued ∨ t.waiting ≠ none)) ∨
        ∃ e, s.transport.stream = bytes.map TEvent.byte ++ .fail e :: t.transport.stream ∧
          s.readFailed t size.toNat 0x2000#16 e t.transport.stream issued := by
  have spec := resync_spec s.config.filler s.pkt fits.pos s.transport
  rw [exec_rread_of_fits fits] at h
  generalize resync s.config.filler s.pkt size.toNat s.transport = ending at h spec
  obtain ⟨r, u⟩ := ending
  cases r with
  | window w =>
    obtain ⟨len, bytes, issued, shape, stream, reads⟩ := spec
    obtain ⟨t', ht, rfl, read⟩ := finishRead_window fits len reads
    cases ht.symm.trans h
    exact ⟨issued, shape, reads, bytes, .inl ⟨stream, .inl ⟨w, len, read⟩⟩⟩
  | comm e =>
    obtain ⟨bytes, issued, shape, stream, reads⟩ := spec
    cases h
    exact ⟨issued, shape, reads, bytes, .inr ⟨e, stream, readFailed_loseWindow .comm _ reads⟩⟩
  | timeout =>
    obtain ⟨bytes, issued, shape, stream, reads⟩ := spec
    cases h
    exact ⟨issued, shape, reads, bytes, .inl ⟨stream, .inr (.inl (readFailed_loseWindow .timeout _ reads))⟩⟩
  | unanswered r =>
    obtain ⟨-, bytes, issued, shape, stream, reads⟩ := spec
    cases h
    exact ⟨issued, shape, reads, bytes, .inl ⟨stream, .inr (.inr (by simp))⟩⟩

/-! ### What a read window leaves -/

theorem State.windowRead.err_ok (h : s.windowRead t w rest sizes) : t.err = 0x0000#16 := by rw [h.1]

theorem State.windowRead.terr_eq (h : s.windowRead t w rest sizes) : t.terr = s.terr := by rw [h.1]

theorem State.windowRead.stream_eq (h : s.windowRead t w rest sizes) : t.transport.stream = rest := by rw [h.1]

theorem State.windowRead.flen_eq (h : s.windowRead t w rest sizes) : t.flen.toNat = s.flen.toNat + w.length := h.2.1

theorem State.windowRead.pkt_eq_false_iff (h : s.windowRead t w rest sizes) :
    t.pkt = false ↔ w.getLast? = some 0x17#8 := h.2.2.1

/-- The window stands at FLEN. -/
theorem State.windowRead.read_window (h : s.windowRead t w rest sizes) {k : Nat} (hk : k < w.length) :
    some (t.fb.read (s.flen.toNat + k)) = w[k]? := by
  obtain ⟨-, -, -, bytes⟩ := h
  rw [bytes, if_neg (by omega), Nat.add_sub_cancel_left, List.getElem?_eq_getElem hk, Option.getD_some]

/-- PKT follows the byte in front of the new FLEN (R197). -/
theorem State.windowRead.pkt_eq_false_iff_read (h : s.windowRead t w rest sizes) (nonempty : 0 < w.length) :
    t.pkt = false ↔ t.fb.read (t.flen.toNat - 1) = 0x17#8 := by
  rw [h.pkt_eq_false_iff, List.getLast?_eq_getElem?, ← h.read_window (Nat.sub_one_lt_of_lt nonempty), h.flen_eq,
    Nat.add_sub_assoc nonempty, Option.some_inj]

theorem State.readFailed.err_eq {n : Nat} {code : Half} (h : s.readFailed t n code e rest sizes) : t.err = code := by
  rw [h.1]

theorem State.readFailed.terr_eq {n : Nat} {code : Half} (h : s.readFailed t n code e rest sizes) : t.terr = e := by
  rw [h.1]

theorem State.readFailed.flen_eq {n : Nat} {code : Half} (h : s.readFailed t n code e rest sizes) :
    t.flen = s.flen := by
  rw [h.1]

end Rread

/-- Settles O48: the opcode selects RREAD, and the two tests come before the transport. -/
theorem rreadRefusesWhatDoesNotFit : Obligations.RreadRefusesWhatDoesNotFit :=
  ⟨fun w => decode_of_opcode (i := .rread (fieldH w)), fun _ _ h => exec_rread_of_not_fits (State.not_fits_iff.2 h)⟩

/-- Settles O49, by `resync_raw`. -/
theorem alignedReadStoresRawBytes : Obligations.AlignedReadStoresRawBytes := by
  intro s size w rest fits len stream aligned
  exact rread_windowRead fits len (resync_raw fits.pos len stream aligned)

/-- Settles O50, by `resync_shift`. -/
theorem leadingFillerIsShiftedOut : Obligations.LeadingFillerIsShiftedOut := by
  intro s size n good refill rest fits notStarted pos nonempty head len refillLen stream
  exact rread_windowRead fits (by simp; omega)
    (notStarted ▸ resync_shift pos nonempty head len refillLen stream)

/-- Settles O51, by `resync_garbage`. -/
theorem garbageIsRetriedByteByByte : Obligations.GarbageIsRetriedByteByByte := by
  intro s size n good tail rest fits notStarted few notFiller len stream
  have pos := fits.pos
  exact rread_windowRead fits (by simp; omega) (notStarted ▸ resync_garbage few notFiller len stream)

/-- Settles O52, by `resync_timeout`. -/
theorem fillerOnlyTimesOut : Obligations.FillerOnlyTimesOut := by
  intro s size rest fits notStarted stream
  exact rread_timeout fits (notStarted ▸ resync_timeout stream)

/-! ### A failure in each of the four kinds of read (R199) -/

section Failures

variable {filler good : Byte} {size n : Nat} {t : Transport} {e : Word} {rest : List TEvent}

theorem resync_raw_fails (pkt : Bool) {bytes : List Byte} (short : bytes.length < size)
    (h : t.stream = bytes.map TEvent.byte ++ .fail e :: rest) :
    resync filler pkt size t = (.comm e, ⟨rest, t.reads ++ [size]⟩) := by
  rw [resync_eq, treadThen_fail short h, Reading.count]

theorem resync_refill_fails {good refill : List Byte} (pos : 0 < n) (nonempty : good ≠ [])
    (head : good.head? ≠ some filler) (len : n + good.length = size) (short : refill.length < n)
    (h : t.stream = (List.replicate n filler ++ good ++ refill).map TEvent.byte ++ .fail e :: rest) :
    resync filler false size t = (.comm e, ⟨rest, t.reads ++ [size, n]⟩) := by
  rw [List.map_append, List.append_assoc] at h
  rw [resync_refill pos nonempty head len h, treadThen_fail short rfl, Reading.count, List.append_assoc]
  rfl

theorem resync_retry_fails (few : n < 10)
    (h : t.stream = (List.replicate (size + n) filler).map TEvent.byte ++ .fail e :: rest) :
    resync filler false size t = (.comm e, ⟨rest, t.reads ++ ([size] ++ List.replicate (n + 1) 1)⟩) := by
  have unread : ([] : List Byte).length < (Reading.retry size (9 - n)).count := Nat.one_pos
  rw [resync_retries (m := (9 - n) + 1) (by omega) h, retryByte_succ, treadThen_fail unread rfl, Reading.count,
    List.replicate_succ']
  simp

theorem resync_tail_fails {tail : List Byte} (few : n < 10) (notFiller : good ≠ filler)
    (short : tail.length < size - 1)
    (h : t.stream = (List.replicate (size + n) filler ++ good :: tail).map TEvent.byte ++ .fail e :: rest) :
    resync filler false size t
      = (.comm e, ⟨rest, t.reads ++ ([size] ++ List.replicate (n + 1) 1 ++ [size - 1])⟩) := by
  rw [List.map_append, List.append_assoc] at h
  rw [resync_tail few notFiller h, readTail_more (by omega), treadThen_fail short rfl, Reading.count, List.append_assoc]

end Failures

/-- Settles O53: the ways an RREAD ends, and the failure of each kind of read. -/
theorem transportFailureEndsTheRead : Obligations.TransportFailureEndsTheRead := by
  refine ⟨fun s t size fits _ h completed => ?_, fun s size bytes e rest fits short stream => ?_,
    fun s size n good refill e rest fits notStarted pos nonempty head len short stream => ?_,
    fun s size n e rest fits notStarted few stream => ?_,
    fun s size n good tail e rest fits notStarted few notFiller short stream => ?_⟩
  · obtain ⟨issued, -, -, bytes, ⟨stream, ⟨w, -, read⟩ | timeout | waits⟩ | ⟨e, stream, failed⟩⟩ :=
      exec_rread_cases fits h
    · exact .inl ⟨bytes, stream, .inl read.err_ok, read.terr_eq⟩
    · exact .inl ⟨bytes, stream, .inr timeout.err_eq, timeout.terr_eq⟩
    · exact absurd completed waits
    · exact .inr ⟨bytes, e, issued, stream, failed⟩
  · exact rread_comm fits (resync_raw_fails s.pkt short stream)
  · exact rread_comm fits (notStarted ▸ resync_refill_fails pos nonempty head len short stream)
  · exact rread_comm fits (notStarted ▸ resync_retry_fails few stream)
  · exact rread_comm fits (notStarted ▸ resync_tail_fails few notFiller short stream)

/-! ### The sizes of the reads (R200) -/

theorem issuedShape.length_le {pkt : Bool} {size : Nat} {issued : List Nat} (h : issuedShape pkt size issued) :
    issued.length ≤ 12 := by
  obtain rfl | ⟨-, n, -, -, rfl⟩ | ⟨-, n, few, rfl | ⟨-, rfl⟩⟩ := h
  · simp
  · simp
  · simp only [List.length_append, List.length_singleton, List.length_replicate]
    omega
  · simp only [List.length_append, List.length_singleton, List.length_replicate]
    omega

theorem issuedShape.pos {pkt : Bool} {size : Nat} {issued : List Nat} (h : issuedShape pkt size issued)
    (hs : 0 < size) : ∀ k ∈ issued, 0 < k := by
  obtain rfl | ⟨-, n, pos, -, rfl⟩ | ⟨-, n, -, rfl | ⟨more, rfl⟩⟩ := h
  · simpa using hs
  · simp [hs, pos]
  · simp [or_imp, forall_and, hs]
  · simp [or_imp, forall_and, hs, more]

/-- Settles O54: an RREAD that does not fit issues no read, and one that fits issues those of `issuedShape`. -/
theorem rreadIssuesAtMostTwelveReads : Obligations.RreadIssuesAtMostTwelveReads := by
  intro s t size h
  by_cases fits : s.fits size
  · obtain ⟨issued, shape, reads, -⟩ := exec_rread_cases fits h
    refine ⟨issued, reads, shape.length_le, shape.pos fits.pos, .inr ?_⟩
    obtain one | shifted | ⟨notStarted, n, few, retried⟩ := shape
    · exact .inl one
    · exact .inr (.inl shifted)
    · exact .inr (.inr ⟨notStarted, n, few, retried.imp_right And.right⟩)
  · cases (exec_rread_of_not_fits fits).symm.trans h
    exact ⟨[], (List.append_nil _).symm, by decide, by simp, .inl rfl⟩

/-- Settles O55: of the ways an RREAD ends only a window that was read reports OK, and of the effects of the commands
only that one writes PKT. -/
theorem packetStartedFollowsTheFinalByte : Obligations.PacketStartedFollowsTheFinalByte := by
  refine ⟨fun s t size _ h completed ok => ?_, fun i s t h changed => ?_⟩
  · by_cases fits : s.fits size
    · obtain ⟨issued, -, -, bytes, ⟨-, ⟨w, len, read⟩ | timeout | waits⟩ | ⟨e, -, failed⟩⟩ :=
        exec_rread_cases fits h
      · exact ⟨len ▸ read.flen_eq, read.pkt_eq_false_iff_read (len ▸ fits.pos)⟩
      · exact absurd (timeout.err_eq.symm.trans ok) (by decide)
      · exact absurd completed waits
      · exact absurd (failed.err_eq.symm.trans ok) (by decide)
    · cases (exec_rread_of_not_fits fits).symm.trans h
      simp at ok
  · cases exec_effect h with
    | rread n => exact ⟨n, rfl, rfl⟩
    | _ => exact absurd rfl changed

/-! ### A frame behind filler (R201) -/

/-- Fewer than `size + 10` filler bytes are passed over: none, fewer than a window of them, or a window and retries. -/
theorem rread_frame_behind_filler {s : State} {size : Half} {m : Nat} {f : List Byte} {rest : List TEvent}
    (fits : s.fits size) (notStarted : s.pkt = false) (len : f.length = size.toNat)
    (head : f.head? ≠ some s.config.filler)
    (stream : s.transport.stream
      = (List.replicate m s.config.filler).map TEvent.byte ++ f.map TEvent.byte ++ rest) (few : m < size.toNat + 10) :
    ∃ t sizes, exec (.rread size) s = .next t ∧ s.windowRead t f rest sizes := by
  have pos := fits.pos
  obtain ⟨b, tail, rfl⟩ : ∃ b tail, f = b :: tail := List.exists_cons_of_length_pos (by omega)
  rcases Nat.eq_zero_or_pos m with rfl | filled
  · obtain ⟨t, ht, read⟩ := alignedReadStoresRawBytes s size _ rest fits len (by simpa using stream) (.inr head)
    exact ⟨t, _, ht, read⟩
  · rcases Nat.lt_or_ge m size.toNat with inside | all
    · obtain ⟨k, hk⟩ : ∃ k, size.toNat - m = k + 1 := ⟨size.toNat - m - 1, by omega⟩
      have split : (b :: tail.take k) ++ tail.drop k = b :: tail := by simp
      simp only [List.length_cons] at len
      obtain ⟨t, ht, read⟩ := leadingFillerIsShiftedOut s size m (b :: tail.take k) (tail.drop k) rest fits notStarted
        filled (by simp) head (by simp; omega) (by simp; omega)
        (by rw [stream, ← split, List.map_append, ← List.append_assoc])
      exact ⟨t, _, ht, split ▸ read⟩
    · obtain ⟨n, rfl⟩ := Nat.exists_eq_add_of_le all
      obtain ⟨t, ht, read⟩ := garbageIsRetriedByteByByte s size n b tail rest fits notStarted (by omega)
        (by simpa using head) (by simp at len; omega) stream
      exact ⟨t, _, ht, read⟩

/-- Settles O56: below the bound the frame is the window that is read; from there on the eleven reads see filler
only. -/
theorem cleanFrameBehindFiller : Obligations.CleanFrameBehindFiller := by
  intro s size m f rest fits notStarted len head stop stream
  rcases Nat.lt_or_ge m (size.toNat + 10) with few | many
  · obtain ⟨t, sizes, ht, read⟩ := rread_frame_behind_filler fits notStarted len head stream few
    have window : ∀ k < size.toNat, some (t.fb.read (s.flen.toNat + k)) = f[k]? := fun k hk =>
      read.read_window (len ▸ hk)
    exact ⟨t, ht, iff_of_true few ⟨read.err_ok, window⟩,
      fun _ => ⟨read.pkt_eq_false_iff.2 stop, len ▸ read.flen_eq, read.stream_eq⟩,
      fun many => absurd few (Nat.not_lt.2 many)⟩
  · obtain ⟨more, rfl⟩ := Nat.exists_eq_add_of_le many
    obtain ⟨t, ht, failed⟩ := fillerOnlyTimesOut s size
      ((List.replicate more s.config.filler).map TEvent.byte ++ f.map TEvent.byte ++ rest) fits notStarted
      (by simp only [stream, List.replicate_add _ more, List.map_append, List.append_assoc])
    have timeout : t.err ≠ 0x0000#16 := by
      rw [failed.err_eq]
      decide
    exact ⟨t, ht, iff_of_false (Nat.not_lt.2 many) fun h => timeout h.1, fun few => absurd few (Nat.not_lt.2 many),
      fun _ => ⟨failed.err_eq, failed.flen_eq⟩⟩

end Sys2Proof.Machine

namespace Sys2Proof.Machine

/-! ### The commands of the buffer port (R221 to R229) -/

theorem exec_putpb_of_full {s : State} (full : s.plen.toNat = 4096) (b : Byte) :
    exec (.putpb b) s = raise .length s := if_pos full

theorem exec_putfb_of_full {s : State} (full : s.flen.toNat = 4103) (b : Byte) :
    exec (.putfb b) s = raise .length s := if_pos full

theorem exec_getfb_of_beyond {s : State} {h : Half} (beyond : s.flen.toNat ≤ h.toNat) :
    exec (.getfb h) s = raise .length s := if_pos beyond

/-- A legal fill count keeps a valid index inside FB, so the address test passes as well. -/
theorem exec_getfb_of_valid {s : State} {h : Half} (legal : s.flen.toNat ≤ 4103) (valid : h.toNat < s.flen.toNat) :
    exec (.getfb h) s = complete { s with rdata := s.fb.read h.toNat } :=
  (if_neg (Nat.not_le.2 valid)).trans (if_pos (Nat.lt_of_lt_of_le valid legal))

/-- Settles O23: below the size of PB the new fill count still fits its register, and the write is at the old one. -/
theorem putpbAppends : Obligations.PutpbAppends := by
  refine ⟨fun w => decode_of_opcode (i := .putpb (fieldB w)), fun b s full => exec_putpb_of_full full b,
    fun b s room => ?_⟩
  exact ⟨_, exec_putpb_of_room rfl room b, rfl, toNat_fill_payload room, Memory.read_write s.pb s.plen.toNat b⟩

/-- Settles O24: as for PB, and `setFrame` does not touch PKT. -/
theorem putfbAppends : Obligations.PutfbAppends := by
  refine ⟨fun w => decode_of_opcode (i := .putfb (fieldB w)), fun b s full => exec_putfb_of_full full b,
    fun b s room => ?_⟩
  exact ⟨_, exec_putfb_of_room rfl room b, rfl, toNat_fill room, Memory.read_write s.fb s.flen.toNat b⟩

/-- Settles O25: the index is beyond the fill count, or below a legal one and so inside FB. -/
theorem getfbReadsOneByte : Obligations.GetfbReadsOneByte :=
  ⟨fun w => decode_of_opcode (i := .getfb (fieldH w)), fun _ _ beyond => exec_getfb_of_beyond beyond,
    fun _ _ legal valid => exec_getfb_of_valid legal valid⟩

/-- Settles O22: the opcode selects each command, and its next state is its definition's. -/
theorem clearCommandsEmptyABuffer : Obligations.ClearCommandsEmptyABuffer :=
  ⟨fun _ => decode_of_opcode (i := .clrpb), fun _ => decode_of_opcode (i := .clrfb), fun _ => rfl, fun _ => rfl⟩

end Sys2Proof.Machine

namespace Sys2Proof.Machine

/-! ### The tag bits of ERR (R242) -/

/-- BTLDR is its tag byte over the status byte. -/
theorem btldr_bits_eq (s : Byte) : (ResultCode.btldr s).bits = 0x40#8 ++ s := by
  revert s
  decide

theorem btldr_bits_tag (s : Byte) : (ResultCode.btldr s).bits.getLsbD 14 = true := by
  simp [ResultCode.bits, btldrTag]

theorem btldr_bits_no_commTag (s : Byte) : (ResultCode.btldr s).bits.getLsbD 13 = false := by
  simp [ResultCode.bits, btldrTag]

theorem btldr_bits_status (s : Byte) : (ResultCode.btldr s).bits.extractLsb' 0 8 = s := by
  rw [btldr_bits_eq, BitVec.extractLsb'_append_eq_right]

/-- The values ERR can hold are those of the codes, where BTLDR has a nonzero status (R241). -/
theorem isResultCode_iff {e : Half} : isResultCode e = true ↔ ∃ c : ResultCode, c ≠ .btldr 0#8 ∧ e = c.bits := by
  refine ⟨fun h => ?_, fun ⟨c, hc, e⟩ => e ▸ isResultCode_bits hc⟩
  simp only [isResultCode, Bool.or_eq_true, List.any_eq_true, beq_iff_eq, Bool.and_eq_true, bne_iff_ne] at h
  rcases h with ⟨c, listed, rfl⟩ | ⟨tag, nonzero⟩
  · refine ⟨c, ?_, rfl⟩
    rintro rfl
    simp at listed
  · refine ⟨.btldr (e.extractLsb' 0 8), by simpa using nonzero, ?_⟩
    have halves : e.extractLsb' 8 8 ++ e.extractLsb' 0 8 = e :=
      (BitVec.extractLsb'_append_extractLsb'_eq_extractLsb' rfl).trans BitVec.extractLsb'_eq_self
    rw [btldr_bits_eq, ← tag, halves]

/-- Settles O15, code by code: only BTLDR has bit 14, and only COMM has bit 13. -/
theorem errorTagBits : Obligations.ErrorTagBits := by
  refine ⟨fun e legal => ?_,
    fun s nonzero => ⟨isResultCode_bits (by simpa using nonzero), btldr_bits_tag s, btldr_bits_status s⟩, rfl⟩
  obtain ⟨c, hc, rfl⟩ := isResultCode_iff.1 legal
  cases c with
  | btldr s =>
    have nonzero : s ≠ 0#8 := by simpa using hc
    rw [btldr_bits_no_commTag, btldr_bits_status]
    exact ⟨by simp, fun _ => ⟨nonzero, rfl⟩, by simp⟩
  | _ => decide

end Sys2Proof.Machine

namespace Sys2Proof.Machine

/-! ### A good state is never stopped (R245, R248, R249) -/

theorem State.Inv.not_badCounts {s : State} (hs : s.Inv) : ¬ badCounts s :=
  not_or.2 ⟨Nat.not_lt.2 hs.plen_le, Nat.not_lt.2 hs.flen_le⟩

theorem exec_answers {s : State} (hs : s.Inv) (i : Instr) : ∃ t, exec i s = .next t := by
  rcases exec_ends i s with ⟨t, e, -⟩ | ⟨-, -, bad⟩
  · exact ⟨t, e⟩
  · exact absurd bad hs.not_badCounts

/-- Only RREAD starts a wait. -/
theorem exec_keeps_waiting {i : Instr} {s t : State} (notRread : isRread i = false) (h : exec i s = .next t) :
    t.waiting = s.waiting := by
  cases exec_effect h with
  | rreadWaits => simp [isRread] at notRread
  | _ => rfl

theorem access_answers {s : State} (hs : s.Inv) (idle : s.waiting = none) (a : Access) : ∃ t, access a s = .next t := by
  cases a with
  | read n => exact ⟨_, rfl⟩
  | write n v =>
    rcases regWrite_cases n v s with ⟨-, e⟩ | ⟨a0, a1, e⟩ <;> rw [access, e]
    · rcases runCommand_cases v (s.setCmd v) with ⟨i, -, e⟩ | e <;> rw [e]
      · exact exec_answers (hs.of_port (u := s.setCmd v) idle rfl) i
      · exact ⟨_, rfl⟩
    · exact ⟨_, rfl⟩

/-- Settles O13: a fault needs a fill count the invariant rules out, no command is refused, and only RREAD waits. -/
theorem nothingStopsAGoodState : Obligations.NothingStopsAGoodState := by
  refine ⟨fun i s hs => ?_, fun s hs admitted => ?_⟩
  · obtain ⟨t, h⟩ := exec_answers hs i
    exact ⟨t, h, fun notRread idle => (exec_keeps_waiting notRread h).trans idle⟩
  · rcases step_cases s with ⟨r, refused, -⟩ | ⟨-, r, waits, e⟩ | ⟨-, -, -, e⟩ | ⟨-, idle, a, -, e⟩
    · rw [launchRefusal_eq_none.2 admitted] at refused
      cases refused
    · obtain ⟨n, -, fits, legal, last⟩ := hs.waits_in_rread r waits
      obtain ⟨t, h, -⟩ := resumeRread_effect fits legal last
      exact ⟨t, e.trans h⟩
    · exact ⟨s, e⟩
    · rw [e]
      exact access_answers (hs.of_port (u := s.advance) idle rfl) idle a

/-! ### The codes a command reports, and what it changes where it reports an error (R243, R244) -/

/-- Every row of the table has OK (R243). -/
theorem mayReport_ok (i : Instr) : mayReport i .ok = true := by cases i <;> rfl

theorem Effect.reports {s t : State} {i : Instr} (hs : s.Inv) (eff : Effect s i t) (completed : t.waiting = none) :
    ∃ c, mayReport i c = true ∧ t.err = c.bits := by
  cases eff with
  | putpbFull | putfbFull | getfbBeyond | rreadRefused => exact ⟨.length, rfl, rfl⟩
  | tooLong i _ why => exact ⟨.length, why.resolve_right (Nat.not_lt.2 hs.plen_le), rfl⟩
  | parseFails i _ c may => exact ⟨c, may, rfl⟩
  | parseFailsWith i _ c may => exact ⟨c, may, rfl⟩
  | rreadComm => exact ⟨.comm, rfl, rfl⟩
  | rreadTimeout => exact ⟨.timeout, rfl, rfl⟩
  | rreadWaits => simp at completed
  | _ => exact ⟨.ok, mayReport_ok _, rfl⟩

/-- Settles O14, by the ways a command can end. -/
theorem commandsReportOnlyTheirCodes : Obligations.CommandsReportOnlyTheirCodes :=
  fun _ _ _ hs h completed => (exec_effect h).reports hs completed

/-- The bytes below the window stay where the window is lost. -/
theorem State.loseWindow_read_below (s : State) (n : Nat) :
    ∀ a < s.flen.toNat, (s.loseWindow s.flen.toNat n).fb.read a = s.fb.read a :=
  fun _ below => Memory.read_writeBytes_outside _ (.inl below)

/-- Settles O16, by the ways a command can end: most errors write ERR alone, two codes of the parser STATUS as well, and
an RREAD that fails loses its window. -/
theorem errorsArePrecise : Obligations.ErrorsArePrecise := by
  intro i s t h completed failed
  cases exec_effect h with
  | putpbFull | putfbFull | getfbBeyond | rreadRefused | tooLong | parseFails =>
    refine ⟨rfl, ?_⟩
    simp
  | parseFailsWith _ _ c _ code =>
    have tagged : c.bits = 0x0010#16 ∨ c.bits.getLsbD 14 = true := by
      rcases code with rfl | ⟨st, -, rfl⟩
      · exact .inl rfl
      · exact .inr (btldr_bits_tag st)
    refine ⟨rfl, fun _ => tagged, ?_⟩
    simp
  | rreadComm n _ e u =>
    exact ⟨rfl, by simp, fun _ => rfl, fun _ => ⟨rfl, .inl rfl⟩, fun _ => ⟨rfl, .inl rfl⟩, s.loseWindow_read_below _⟩
  | rreadTimeout n _ u =>
    exact ⟨rfl, by simp, by simp, fun _ => ⟨rfl, .inr rfl⟩, fun _ => ⟨rfl, .inr rfl⟩, s.loseWindow_read_below _⟩
  | rreadWaits => simp at completed
  | _ => exact absurd rfl failed

/-! ### The old ERR (R245) -/

/-- Every command but RREAD ends by writing ERR over what stood in it, and reads it nowhere. -/
theorem exec_of_other_err {i : Instr} (notRread : isRread i = false) (s : State) (e : Half) :
    exec i { s with err := e } = exec i s := by
  cases i with
  | sum16 src | crc16 src | csum16 src | crc32c src => cases src <;> rfl
  | rread size => simp [isRread] at notRread
  | _ => rfl

/-- RREAD as well, except where it waits and so has not ended. -/
theorem finishRead_of_other_err {n : Nat} {s t : State} {x : ReadEnd × Transport} (e : Half) (idle : s.waiting = none)
    (h : finishRead n s x = .next t) :
    finishRead n { s with err := e } x = .next (if t.waiting = none then t else { t with err := e }) := by
  obtain ⟨r, u⟩ := x
  cases r with
  | window | comm | timeout =>
    cases h
    exact (congrArg Host.Outcome.next (if_pos idle)).symm
  | unanswered =>
    cases h
    rfl

/-- Settles O19, by `exec_of_other_err` and `finishRead_of_other_err`; an RREAD that does not fit writes ERR alone. -/
theorem errorsAreNotSticky : Obligations.ErrorsAreNotSticky := by
  intro i s t e idle h
  cases i with
  | rread size =>
    by_cases fits : s.fits size
    · rw [exec_rread_of_fits fits] at h
      exact (exec_rread_of_fits (s := { s with err := e }) fits).trans (finishRead_of_other_err e idle h)
    · cases (exec_rread_of_not_fits fits).symm.trans h
      rw [if_pos idle]
      exact exec_rread_of_not_fits (s := { s with err := e }) fits
  | _ =>
    rw [exec_of_other_err rfl, if_pos ((exec_keeps_waiting rfl h).trans idle)]
    exact h

end Sys2Proof.Machine

namespace Sys2Proof.Machine

/-! ### A read that is not answered (R249) -/

section Waits

variable {filler good : Byte} {size n : Nat} {t : Transport}

theorem resync_raw_waits (pkt : Bool) {bytes : List Byte} (short : bytes.length < size)
    (h : t.stream = bytes.map TEvent.byte) :
    resync filler pkt size t = (.unanswered (.raw size), ⟨t.stream, t.reads ++ [size]⟩) := by
  rw [resync_eq, treadThen_unanswered short h, Reading.count]

theorem resync_refill_waits {good refill : List Byte} (pos : 0 < n) (nonempty : good ≠ [])
    (head : good.head? ≠ some filler) (len : n + good.length = size) (short : refill.length < n)
    (h : t.stream = (List.replicate n filler ++ good ++ refill).map TEvent.byte) :
    resync filler false size t
      = (.unanswered (.refill good n), ⟨refill.map TEvent.byte, t.reads ++ [size, n]⟩) := by
  rw [List.map_append] at h
  rw [resync_refill pos nonempty head len h, treadThen_unanswered short rfl, Reading.count, List.append_assoc]
  rfl

theorem resync_retry_waits (few : n < 10) (h : t.stream = (List.replicate (size + n) filler).map TEvent.byte) :
    resync filler false size t
      = (.unanswered (.retry size (9 - n)), ⟨[], t.reads ++ ([size] ++ List.replicate (n + 1) 1)⟩) := by
  have unread : ([] : List Byte).length < (Reading.retry size (9 - n)).count := Nat.one_pos
  rw [← List.append_nil (List.map _ _)] at h
  rw [resync_retries (m := (9 - n) + 1) (by omega) h, retryByte_succ, treadThen_unanswered unread rfl, Reading.count,
    List.replicate_succ']
  simp

theorem resync_tail_waits {tail : List Byte} (few : n < 10) (notFiller : good ≠ filler)
    (short : tail.length < size - 1)
    (h : t.stream = (List.replicate (size + n) filler ++ good :: tail).map TEvent.byte) :
    resync filler false size t
      = (.unanswered (.tail good (size - 1)),
          ⟨tail.map TEvent.byte, t.reads ++ ([size] ++ List.replicate (n + 1) 1 ++ [size - 1])⟩) := by
  rw [List.map_append, List.map_cons] at h
  rw [resync_tail few notFiller h, readTail_more (by omega), treadThen_unanswered short rfl, Reading.count,
    List.append_assoc]

end Waits

/-- An RREAD with an unanswered read sets `waiting` and leaves the transport to that read. -/
theorem rread_waits {s : State} {size : Half} {r : Reading} {u : Transport} (fits : s.fits size)
    (h : resync s.config.filler s.pkt size.toNat s.transport = (.unanswered r, u)) :
    exec (.rread size) s = .next { s with waiting := some r, transport := u } := by
  rw [exec_rread_of_fits fits, h]
  rfl

theorem resumeRread_of_fit {s : State} {r : Reading} (fit : s.flen.toNat + r.size ≤ 4103) :
    resumeRread r s = finishRead r.size (s.setWaiting none) (goOn s.config.filler s.pkt r s.transport) :=
  if_neg (Nat.not_lt.2 fit)

/-- The step of a waiting RREAD whose read is still unanswered is the wait it is in. -/
theorem step_of_unanswered {s : State} {r : Reading} {bytes : List Byte} (admitted : s.admitted = true)
    (waits : s.waiting = some r) (fit : s.flen.toNat + r.size ≤ 4103)
    (stream : s.transport.stream = bytes.map TEvent.byte) (short : bytes.length < r.count) : step s = .next s := by
  rw [step_of_waiting admitted waits, resumeRread_of_fit fit, goOn_eq, answerThen_unanswered short stream,
    finishRead, ← waits]
  rfl

/-- Settles O57: one unanswered read of each kind, and the step of a block that waits. -/
theorem unansweredReadWaits : Obligations.UnansweredReadWaits := by
  refine ⟨fun s size bytes fits stream short => ?_,
    fun s size n good refill fits notStarted pos nonempty head len short stream => ?_,
    fun s size n fits notStarted few stream => ?_,
    fun s size n good tail fits notStarted few notFiller short stream => ?_,
    fun s r bytes admitted waits fit stream short => step_of_unanswered admitted waits fit stream short⟩
  · exact rread_waits fits (resync_raw_waits s.pkt short stream)
  · exact rread_waits fits (notStarted ▸ resync_refill_waits pos nonempty head len short stream)
  · exact rread_waits fits (notStarted ▸ resync_retry_waits few stream)
  · exact rread_waits fits (notStarted ▸ resync_tail_waits few notFiller short stream)

/-! ### An RREAD that goes on (R249, log entry 6) -/

/-- The end of the reads brings its own transport, so what stood there before does not matter. -/
theorem finishRead_setTransport (n : Nat) (s : State) (u : Transport) (x : ReadEnd × Transport) :
    finishRead n (s.setTransport u) x = finishRead n s x := by
  obtain ⟨r, u'⟩ := x
  cases r <;> rfl

/-- An RREAD waits only where one of its reads is unanswered, a read of the same window. -/
theorem exec_rread_of_waits {s t : State} {size : Half} (idle : s.waiting = none) (fits : s.fits size)
    (h : exec (.rread size) s = .next t) (waits : t.waiting ≠ none) :
    ∃ r u, r.size = size.toNat ∧ resync s.config.filler s.pkt size.toNat s.transport = (.unanswered r, u) ∧
      t = (s.setWaiting (some r)).setTransport u := by
  have spec := resync_spec s.config.filler s.pkt fits.pos s.transport
  rw [exec_rread_of_fits fits] at h
  generalize resync s.config.filler s.pkt size.toNat s.transport = ending at h spec
  obtain ⟨r, u⟩ := ending
  cases r with
  | window | comm | timeout =>
    cases h
    exact absurd idle waits
  | unanswered r =>
    obtain ⟨⟨legal, -⟩, -⟩ := spec
    cases h
    exact ⟨r, u, Reading.legal_size legal, rfl, rfl⟩

/-- Settles O58: the reads end alike (`resync_deliver`), and the waiting block differs from the one that starts the
RREAD in `waiting`, which it clears as it goes on, and in the transport. -/
theorem resumedReadsEndAlike : Obligations.ResumedReadsEndAlike := by
  intro s t size evs admitted idle fits h waits
  obtain ⟨r, u, sameSize, ending, rfl⟩ := exec_rread_of_waits idle fits h waits
  have fit : s.flen.toNat + r.size ≤ 4103 := sameSize ▸ fits.2
  have released : s.setWaiting none = s := by
    rw [← idle]
    rfl
  calc step (((s.setWaiting (some r)).setTransport u).deliver evs)
      = resumeRread r (((s.setWaiting (some r)).setTransport u).deliver evs) :=
        step_of_waiting (s := ((s.setWaiting (some r)).setTransport u).deliver evs) admitted rfl
    _ = finishRead r.size ((s.setWaiting none).setTransport (u.deliver evs))
          (goOn s.config.filler s.pkt r (u.deliver evs)) :=
        resumeRread_of_fit (s := ((s.setWaiting (some r)).setTransport u).deliver evs) fit
    _ = finishRead size.toNat s (goOn s.config.filler s.pkt r (u.deliver evs)) := by
      rw [finishRead_setTransport, released, sameSize]
    _ = finishRead size.toNat (s.deliver evs)
          (resync s.config.filler s.pkt size.toNat (s.transport.deliver evs)) := by
      rw [resync_deliver, ending]
      exact (finishRead_setTransport _ s _ _).symm
    _ = exec (.rread size) (s.deliver evs) := (exec_rread_of_fits (s := s.deliver evs) fits).symm

end Sys2Proof.Machine

namespace Sys2Proof.Machine

/-! ### Reset and the wait for the host (R261, R263) -/

/-- Settles O9: of all that a step can do, readiness excludes the refusal and the RREAD that goes on, and the end of the
host's program excludes an access. -/
theorem blockWaitsForTheHost : Obligations.BlockWaitsForTheHost := by
  rintro s ⟨admitted, idle⟩ atEnd
  rcases step_cases s with ⟨r, refused, -⟩ | ⟨-, r, waits, -⟩ | ⟨-, -, -, stays⟩ | ⟨-, -, a, hasNext, -⟩
  · simp [launchRefusal_eq_none.2 admitted] at refused
  · simp [idle] at waits
  · exact stays
  · simp [atEnd] at hasNext

/-- Settles O10: `State.reset` writes out each register's value in the "reset" column of R23. -/
theorem resetLeavesZeroRegisters : Obligations.ResetLeavesZeroRegisters :=
  ⟨rfl, rfl, rfl, rfl, rfl, rfl, rfl, rfl, rfl, rfl, rfl, rfl, rfl, rfl, rfl, rfl, rfl⟩

end Sys2Proof.Machine
